-- ==== Sys2Proof/Word.lean ====
section
/-! DEFINITION. The widths of rules R6 and R7 of spec/00_scope.md: a byte is 8 bits, a word is 16.
Counts, cycle costs and the cycle counter are plain numbers, since the spec never reduces them to a width. -/

namespace Sys2Proof

/-- A `u8` of rule R7: what a register, an operand byte or a memory cell holds. -/
abbrev Byte := BitVec 8

/-- A `u16` of rule R7: an address or the program counter. -/
abbrev Word := BitVec 16

end Sys2Proof
end

