-- ==== Sys2Proof/Machine/Bits.lean ====
section
/-! DEFINITION. The bit-field, extension and byte-order helpers of rules R6 and R7 of spec/00_scope.md. -/

namespace Sys2Proof

/-- `hi ++ lo` of rule R6: the 16-bit value `hi * 256 + lo`. Little-endian order (rule R64) is the callers' matter: they
pass the byte of the higher address as `hi`. -/
def joinBytes (hi lo : Byte) : Word := hi ++ lo

/-- `w[15:8]` of rule R6. -/
def hiByte (w : Word) : Byte := w.extractLsb' 8 8

/-- `w[7:0]` of rule R6. -/
def loByte (w : Word) : Byte := w.extractLsb' 0 8

/-- `zext_16(v)` of rule R7. -/
def zext16 (v : Byte) : Word := v.setWidth 16

/-- `sext_8(v)` of rule R7, as the 16-bit number that adding it modulo 65536 needs. -/
def sext16 (v : Byte) : Word := v.signExtend 16

/-- A flag's bit at its place in the status byte (rule R25). -/
def flagBit (b : Bool) (place : Nat) : Byte := if b then 1 <<< place else 0

/-- A flag as the number 0 or 1 that the arithmetic of spec/42_alu.md adds. -/
def bitNat (b : Bool) : Nat := if b then 1 else 0

end Sys2Proof
end

