-- ==== Sys2Proof/Config.lean ====
section
/-! DEFINITION. What the spec leaves to the implementation or the host (rule R5 of spec/00_scope.md, rule R31 of
spec/10_state.md, items U1 to U13 of spec/93_implementation_defined.md).
`Params` holds the parameters of one core, which no step writes. The opaque constants are the free values: they have no
body, so nothing in Lean can evaluate one or prove which value it takes. -/

namespace Sys2Proof

/-- The two CPU variants of rule R2: the 6502 with its undocumented opcodes, and the 65C02. -/
inductive Variant where
  | nmos
  | cmos
deriving DecidableEq, Repr

/-- The parameters of rule R5 that one core is built with. They are read by the step and written by none (rule R31).
`FUSSY` is fixed true (rule R109) and so has no field; the host's functions are the opaque constants below. -/
structure Params where
  /-- `VARIANT` (rule R2). -/
  variant : Variant
  /-- `BLOCK_SIZE` (rule R52): the size in bytes of a block of the host's memory map. -/
  blockSize : Nat
  /-- The blocks `b` for which `FLAT(b)` does not hold (rule R52): those backed by the host's handlers. -/
  handlerBlocks : List Nat
  /-- `NMOS_JAM_HALTS` (rule R422, decision D15). -/
  nmosJamHalts : Bool
  /-- `XAA_MAGIC` (rule R413, decision D17). -/
  xaaMagic : Byte
  /-- `LXA_MAGIC` (rule R409, decision D17). -/
  lxaMagic : Byte
  /-- `SH_PAGE_CROSS_CORRUPTS` (rule R416, decision D18). -/
  shPageCrossCorrupts : Bool
deriving DecidableEq, Repr

/-- The byte a location of flat memory reads as while nothing lists it. Rule R55 says it holds the host's launch contents
and item U13 leaves those open. DESIGN CHOICE (log entry 2), an unsafe one: zero, as in the vectors of spec/95_test_vectors.md. -/
def Config.launchByte : Byte := 0

/-- `BLOCK_SIZE` of the original (rule R5). DESIGN CHOICE (log entry 4) for the state after reset only. -/
def Config.originalBlockSize : Nat := 1024

/-- Free value (log entry 5): the byte a handler block answers a read with (rule R56, item U6), by the number of the draw
and by what rule R56 says the handler is told: the block, the address and the `clk` of the instruction's start. -/
opaque Config.handlerRead (draw : Nat) (block : Nat) (addr : Word) (clk : Int) : Byte

/-- Free value (log entry 6): the host's answer to the breakout hook (rule R106, item U7), by the number of the draw and
the `clk` it is called with. -/
opaque Config.breakoutHook (draw : Nat) (clk : Int) : Int

/-- Free value (log entry 7): the byte a general register holds after the host's `Reset()` (rule R550, item U1), by the
number of the draw. -/
opaque Config.resetByte (draw : Nat) : Byte

/-- Free value (log entry 7): the bit a status flag holds after the host's `Reset()` (rule R550, item U1), by the number
of the draw. -/
opaque Config.resetFlag (draw : Nat) : Bool

/-- Free value (log entry 8): `XAA_MAGIC`, which rule R5 leaves OPEN. -/
opaque Config.xaaMagic : Byte

/-- Free value (log entry 8): `LXA_MAGIC`, which rule R5 leaves OPEN. -/
opaque Config.lxaMagic : Byte

/-- Free value (log entry 8): `SH_PAGE_CROSS_CORRUPTS`, which rule R5 leaves OPEN. -/
opaque Config.shPageCrossCorrupts : Bool

end Sys2Proof
end

