-- ==== Sys2Proof/Syntax.lean ====
section
/-! DEFINITION. The instructions of spec/opcode_table.json: one constructor per mnemonic, with the addressing mode and the
operand bytes as its arguments, and one more constructor wherever the table has a second byte for the same mnemonic and mode
(SBC EB, ANC 2B, the NOP classes), so that every table row has a term of its own. -/

namespace Sys2Proof

/-- The addressing modes that form an effective address (rules R114 to R122), with their operand. -/
inductive EaMode where
  /-- Zero-page (rule R114). -/
  | zp (b : Byte)
  /-- Zero-page,X (rule R115). -/
  | zpX (b : Byte)
  /-- Zero-page,Y (rule R116). -/
  | zpY (b : Byte)
  /-- Absolute (rule R117). -/
  | abs (w : Word)
  /-- Absolute,X (rule R118). -/
  | absX (w : Word)
  /-- Absolute,Y (rule R119). -/
  | absY (w : Word)
  /-- (Zero-page), CMOS only (rule R120). -/
  | ind (b : Byte)
  /-- (Zero-page,X) (rule R121). -/
  | indX (b : Byte)
  /-- (Zero-page),Y (rule R122). -/
  | indY (b : Byte)
deriving DecidableEq, Repr

/-- The operand of a read-kind instruction (rule R110): an immediate byte (rule R113) or a memory byte. -/
inductive ReadOp where
  | imm (b : Byte)
  | mem (m : EaMode)
deriving DecidableEq, Repr

/-- The operand of a shift or rotate: the accumulator (rule R112) or a memory byte. -/
inductive RmwOp where
  | acc
  | mem (m : EaMode)
deriving DecidableEq, Repr

/-- The three forms of JMP (rule R310): absolute, (abs) and, on CMOS, (abs,X). -/
inductive JmpMode where
  | abs (w : Word)
  | ind (w : Word)
  | indX (w : Word)
deriving DecidableEq, Repr

/-- The forms of the NMOS undocumented NOPs (rule R421). -/
inductive NopForm where
  | implied
  | imm (b : Byte)
  | zp (b : Byte)
  | zpX (b : Byte)
  | abs (w : Word)
  | absX (w : Word)
deriving DecidableEq, Repr

/-- The forms of the CMOS bad opcodes by length (rule R460): the table's modes `bad1`, `bad2` and `bad3`. -/
inductive BadForm where
  | one
  | two (b : Byte)
  | three (w : Word)
deriving DecidableEq, Repr

/-- The instructions of both variants. Which forms a variant has is `wellFormed`'s matter. -/
inductive Instr where
  -- spec/41_load_store_transfer.md
  | lda (r : ReadOp)
  | ldx (r : ReadOp)
  | ldy (r : ReadOp)
  | sta (m : EaMode)
  | stx (m : EaMode)
  | sty (m : EaMode)
  | stz (m : EaMode)
  | tax
  | tay
  | txa
  | tya
  | tsx
  | txs
  -- spec/42_alu.md
  | ora (r : ReadOp)
  | and (r : ReadOp)
  | eor (r : ReadOp)
  | adc (r : ReadOp)
  | sbc (r : ReadOp)
  /-- SBC #, the NMOS byte EB (rule R209). -/
  | sbcEb (b : Byte)
  | cmp (r : ReadOp)
  | cpx (r : ReadOp)
  | cpy (r : ReadOp)
  /-- BIT of a memory byte (rule R215). -/
  | bit (m : EaMode)
  /-- BIT #, CMOS only (rule R216). -/
  | bitImm (b : Byte)
  -- spec/43_rmw.md
  | asl (r : RmwOp)
  | lsr (r : RmwOp)
  | rol (r : RmwOp)
  | ror (r : RmwOp)
  | inc (m : EaMode)
  | dec (m : EaMode)
  | inx
  | iny
  | dex
  | dey
  | ina
  | dea
  | tsb (m : EaMode)
  | trb (m : EaMode)
  -- spec/44_control.md
  | bpl (b : Byte)
  | bmi (b : Byte)
  | bvc (b : Byte)
  | bvs (b : Byte)
  | bcc (b : Byte)
  | bcs (b : Byte)
  | bne (b : Byte)
  | beq (b : Byte)
  | bra (b : Byte)
  | jmp (m : JmpMode)
  | jsr (w : Word)
  | rts
  -- spec/45_stack_flags_system.md
  | pha
  | php
  | pla
  | plp
  | phx
  | phy
  | plx
  | ply
  | brk
  | rti
  | clc
  | sec
  | cli
  | sei
  | clv
  | cld
  | sed
  /-- The documented NOP, byte EA (rule R367). -/
  | nop
  -- spec/46_nmos_undocumented.md
  | slo (m : EaMode)
  | rla (m : EaMode)
  | sre (m : EaMode)
  | rra (m : EaMode)
  | dcp (m : EaMode)
  | isb (m : EaMode)
  | sax (m : EaMode)
  | lax (m : EaMode)
  | lxa (b : Byte)
  /-- ANC #, byte 0B (rule R410). -/
  | anc (b : Byte)
  /-- ANC #, byte 2B (rule R410). -/
  | anc2b (b : Byte)
  | alr (b : Byte)
  | arr (b : Byte)
  | xaa (b : Byte)
  | axs (b : Byte)
  /-- LAS abs,Y (rule R415). -/
  | las (w : Word)
  | ahx (m : EaMode)
  /-- TAS abs,Y (rule R418). -/
  | tas (w : Word)
  /-- SHY abs,X (rule R419). -/
  | shy (w : Word)
  /-- SHX abs,Y (rule R420). -/
  | shx (w : Word)
  /-- An undocumented NMOS NOP with its opcode byte (rule R421). -/
  | nopUndoc (op : Byte) (f : NopForm)
  /-- An NMOS JAM byte with the operand byte its 2-byte form fetches (rule R422). -/
  | jam (op : Byte) (b : Byte)
  -- spec/47_cmos_unused.md
  /-- A CMOS bad opcode with its opcode byte (rules R460 to R466). -/
  | nopBad (op : Byte) (f : BadForm)
deriving DecidableEq, Repr

end Sys2Proof
end

