-- ==== Sys2Proof/WellFormed.lean ====
section
/-! DEFINITION. Which forms of which instructions a variant has: the **Encoding** entries of the rules of
spec/41_load_store_transfer.md to spec/47_cmos_unused.md, read as lists of addressing modes. -/

namespace Sys2Proof

/-- An effective-address mode without its operand. -/
inductive EaShape where
  | zp
  | zpX
  | zpY
  | abs
  | absX
  | absY
  | ind
  | indX
  | indY
deriving DecidableEq, Repr

/-- The mode of an operand. -/
def EaMode.shape : EaMode → EaShape
  | .zp _ => .zp
  | .zpX _ => .zpX
  | .zpY _ => .zpY
  | .abs _ => .abs
  | .absX _ => .absX
  | .absY _ => .absY
  | .ind _ => .ind
  | .indX _ => .indX
  | .indY _ => .indY

/-- The operand's mode is one of a list. -/
def EaMode.isIn (m : EaMode) (shapes : List EaShape) : Bool := shapes.contains m.shape

/-- The operand is an immediate, or a memory operand in one of the modes of a list. -/
def ReadOp.isIn (r : ReadOp) (shapes : List EaShape) : Bool :=
  match r with
  | .imm _ => true
  | .mem m => m.isIn shapes

/-- The operand is the accumulator, or a memory operand in one of the modes of a list. -/
def RmwOp.isIn (r : RmwOp) (shapes : List EaShape) : Bool :=
  match r with
  | .acc => true
  | .mem m => m.isIn shapes

/-- The memory modes of LDA, STA, ORA, AND, EOR, ADC, SBC and CMP (rule R82): CMOS adds (zp). -/
def aluShapes : Variant → List EaShape
  | .nmos => [.zp, .zpX, .abs, .absX, .absY, .indX, .indY]
  | .cmos => [.zp, .zpX, .abs, .absX, .absY, .indX, .indY, .ind]

/-- The memory modes of the shifts, INC and DEC (rules R251 to R256). -/
def rmwShapes : List EaShape := [.zp, .zpX, .abs, .absX]

/-- The memory modes of the combined read-modify-write operations (rule R400). -/
def comboShapes : List EaShape := [.zp, .zpX, .abs, .absX, .absY, .indX, .indY]

/-- The memory modes of BIT (rule R215): CMOS adds zp,X and abs,X. -/
def bitShapes : Variant → List EaShape
  | .nmos => [.zp, .abs]
  | .cmos => [.zp, .abs, .zpX, .absX]

/-- The instruction exists on CMOS only. -/
def Variant.isCmos : Variant → Bool
  | .nmos => false
  | .cmos => true

/-- The instruction exists on NMOS only. -/
def Variant.isNmos : Variant → Bool
  | .nmos => true
  | .cmos => false

/-- The opcode byte belongs to the form in the table of rule R421. -/
def nopUndocOk (op : Byte) : NopForm → Bool
  | .implied => [0x1A, 0x3A, 0x5A, 0x7A, 0xDA, 0xFA].contains op
  | .imm _ => [0x80, 0x82, 0x89, 0xC2, 0xE2].contains op
  | .zp _ => [0x04, 0x44, 0x64].contains op
  | .zpX _ => [0x14, 0x34, 0x54, 0x74, 0xD4, 0xF4].contains op
  | .abs _ => [0x0C].contains op
  | .absX _ => [0x1C, 0x3C, 0x5C, 0x7C, 0xDC, 0xFC].contains op

/-- The twelve JAM bytes of rule R422. -/
def jamOk (op : Byte) : Bool :=
  [0x02, 0x12, 0x22, 0x32, 0x42, 0x52, 0x62, 0x72, 0x92, 0xB2, 0xD2, 0xF2].contains op

/-- The opcode byte belongs to the length class in rules R461 to R466. -/
def nopBadOk (op : Byte) : BadForm → Bool
  | .one => [0x3, 0x7, 0xB, 0xF].contains (op &&& 0x0F)
  | .two _ => [0x02, 0x22, 0x42, 0x62, 0x82, 0xC2, 0xE2, 0x44, 0x54, 0xD4, 0xF4].contains op
  | .three _ => [0x5C, 0xDC, 0xFC].contains op

/-- The variant has the instruction in this form. -/
def wellFormed (v : Variant) : Instr → Bool
  | .lda r => r.isIn (aluShapes v)
  | .ldx r => r.isIn [.zp, .zpY, .abs, .absY]
  | .ldy r => r.isIn [.zp, .zpX, .abs, .absX]
  | .sta m => m.isIn (aluShapes v)
  | .stx m => m.isIn [.zp, .zpY, .abs]
  | .sty m => m.isIn [.zp, .zpX, .abs]
  | .stz m => v.isCmos && m.isIn [.zp, .zpX, .abs, .absX]
  | .tax => true
  | .tay => true
  | .txa => true
  | .tya => true
  | .tsx => true
  | .txs => true
  | .ora r => r.isIn (aluShapes v)
  | .and r => r.isIn (aluShapes v)
  | .eor r => r.isIn (aluShapes v)
  | .adc r => r.isIn (aluShapes v)
  | .sbc r => r.isIn (aluShapes v)
  | .sbcEb _ => v.isNmos
  | .cmp r => r.isIn (aluShapes v)
  | .cpx r => r.isIn [.zp, .abs]
  | .cpy r => r.isIn [.zp, .abs]
  | .bit m => m.isIn (bitShapes v)
  | .bitImm _ => v.isCmos
  | .asl r => r.isIn rmwShapes
  | .lsr r => r.isIn rmwShapes
  | .rol r => r.isIn rmwShapes
  | .ror r => r.isIn rmwShapes
  | .inc m => m.isIn rmwShapes
  | .dec m => m.isIn rmwShapes
  | .inx => true
  | .iny => true
  | .dex => true
  | .dey => true
  | .ina => v.isCmos
  | .dea => v.isCmos
  | .tsb m => v.isCmos && m.isIn [.zp, .abs]
  | .trb m => v.isCmos && m.isIn [.zp, .abs]
  | .bpl _ => true
  | .bmi _ => true
  | .bvc _ => true
  | .bvs _ => true
  | .bcc _ => true
  | .bcs _ => true
  | .bne _ => true
  | .beq _ => true
  | .bra _ => v.isCmos
  | .jmp (.abs _) => true
  | .jmp (.ind _) => true
  | .jmp (.indX _) => v.isCmos
  | .jsr _ => true
  | .rts => true
  | .pha => true
  | .php => true
  | .pla => true
  | .plp => true
  | .phx => v.isCmos
  | .phy => v.isCmos
  | .plx => v.isCmos
  | .ply => v.isCmos
  | .brk => true
  | .rti => true
  | .clc => true
  | .sec => true
  | .cli => true
  | .sei => true
  | .clv => true
  | .cld => true
  | .sed => true
  | .nop => true
  | .slo m => v.isNmos && m.isIn comboShapes
  | .rla m => v.isNmos && m.isIn comboShapes
  | .sre m => v.isNmos && m.isIn comboShapes
  | .rra m => v.isNmos && m.isIn comboShapes
  | .dcp m => v.isNmos && m.isIn comboShapes
  | .isb m => v.isNmos && m.isIn comboShapes
  | .sax m => v.isNmos && m.isIn [.zp, .zpY, .abs, .indX]
  | .lax m => v.isNmos && m.isIn [.zp, .zpY, .abs, .absY, .indX, .indY]
  | .lxa _ => v.isNmos
  | .anc _ => v.isNmos
  | .anc2b _ => v.isNmos
  | .alr _ => v.isNmos
  | .arr _ => v.isNmos
  | .xaa _ => v.isNmos
  | .axs _ => v.isNmos
  | .las _ => v.isNmos
  | .ahx m => v.isNmos && m.isIn [.absY, .indY]
  | .tas _ => v.isNmos
  | .shy _ => v.isNmos
  | .shx _ => v.isNmos
  | .nopUndoc op f => v.isNmos && nopUndocOk op f
  | .jam op _ => v.isNmos && jamOk op
  | .nopBad op f => v.isCmos && nopBadOk op f

/-- The variant has the instruction in this form, as a proposition. -/
abbrev WellFormed (v : Variant) (i : Instr) : Prop := wellFormed v i = true

end Sys2Proof
end

