-- ==== Sys2Proof/Decode.lean ====
section
/-! DEFINITION. The decoder, from the two dispatch tables of spec/30_encoding.md (rules R88 and R89), total on every byte;
after it the encoder, from the **Encoding** entries of the instruction rules of spec/41_load_store_transfer.md to
spec/47_cmos_unused.md. The two are written from different places of the spec, so that one checks the other. -/

namespace Sys2Proof

/-- Row 0x of the NMOS map (rule R88). -/
def nmosRow0 (b : Byte) (w : Word) : List Instr :=
  [.brk, .ora (.mem (.indX b)), .jam 0x02 b, .slo (.indX b),
   .nopUndoc 0x04 (.zp b), .ora (.mem (.zp b)), .asl (.mem (.zp b)), .slo (.zp b),
   .php, .ora (.imm b), .asl .acc, .anc b,
   .nopUndoc 0x0C (.abs w), .ora (.mem (.abs w)), .asl (.mem (.abs w)), .slo (.abs w)]

/-- Row 1x of the NMOS map (rule R88). -/
def nmosRow1 (b : Byte) (w : Word) : List Instr :=
  [.bpl b, .ora (.mem (.indY b)), .jam 0x12 b, .slo (.indY b),
   .nopUndoc 0x14 (.zpX b), .ora (.mem (.zpX b)), .asl (.mem (.zpX b)), .slo (.zpX b),
   .clc, .ora (.mem (.absY w)), .nopUndoc 0x1A .implied, .slo (.absY w),
   .nopUndoc 0x1C (.absX w), .ora (.mem (.absX w)), .asl (.mem (.absX w)), .slo (.absX w)]

/-- Row 2x of the NMOS map (rule R88). -/
def nmosRow2 (b : Byte) (w : Word) : List Instr :=
  [.jsr w, .and (.mem (.indX b)), .jam 0x22 b, .rla (.indX b),
   .bit (.zp b), .and (.mem (.zp b)), .rol (.mem (.zp b)), .rla (.zp b),
   .plp, .and (.imm b), .rol .acc, .anc2b b,
   .bit (.abs w), .and (.mem (.abs w)), .rol (.mem (.abs w)), .rla (.abs w)]

/-- Row 3x of the NMOS map (rule R88). -/
def nmosRow3 (b : Byte) (w : Word) : List Instr :=
  [.bmi b, .and (.mem (.indY b)), .jam 0x32 b, .rla (.indY b),
   .nopUndoc 0x34 (.zpX b), .and (.mem (.zpX b)), .rol (.mem (.zpX b)), .rla (.zpX b),
   .sec, .and (.mem (.absY w)), .nopUndoc 0x3A .implied, .rla (.absY w),
   .nopUndoc 0x3C (.absX w), .and (.mem (.absX w)), .rol (.mem (.absX w)), .rla (.absX w)]

/-- Row 4x of the NMOS map (rule R88). -/
def nmosRow4 (b : Byte) (w : Word) : List Instr :=
  [.rti, .eor (.mem (.indX b)), .jam 0x42 b, .sre (.indX b),
   .nopUndoc 0x44 (.zp b), .eor (.mem (.zp b)), .lsr (.mem (.zp b)), .sre (.zp b),
   .pha, .eor (.imm b), .lsr .acc, .alr b,
   .jmp (.abs w), .eor (.mem (.abs w)), .lsr (.mem (.abs w)), .sre (.abs w)]

/-- Row 5x of the NMOS map (rule R88). -/
def nmosRow5 (b : Byte) (w : Word) : List Instr :=
  [.bvc b, .eor (.mem (.indY b)), .jam 0x52 b, .sre (.indY b),
   .nopUndoc 0x54 (.zpX b), .eor (.mem (.zpX b)), .lsr (.mem (.zpX b)), .sre (.zpX b),
   .cli, .eor (.mem (.absY w)), .nopUndoc 0x5A .implied, .sre (.absY w),
   .nopUndoc 0x5C (.absX w), .eor (.mem (.absX w)), .lsr (.mem (.absX w)), .sre (.absX w)]

/-- Row 6x of the NMOS map (rule R88). -/
def nmosRow6 (b : Byte) (w : Word) : List Instr :=
  [.rts, .adc (.mem (.indX b)), .jam 0x62 b, .rra (.indX b),
   .nopUndoc 0x64 (.zp b), .adc (.mem (.zp b)), .ror (.mem (.zp b)), .rra (.zp b),
   .pla, .adc (.imm b), .ror .acc, .arr b,
   .jmp (.ind w), .adc (.mem (.abs w)), .ror (.mem (.abs w)), .rra (.abs w)]

/-- Row 7x of the NMOS map (rule R88). -/
def nmosRow7 (b : Byte) (w : Word) : List Instr :=
  [.bvs b, .adc (.mem (.indY b)), .jam 0x72 b, .rra (.indY b),
   .nopUndoc 0x74 (.zpX b), .adc (.mem (.zpX b)), .ror (.mem (.zpX b)), .rra (.zpX b),
   .sei, .adc (.mem (.absY w)), .nopUndoc 0x7A .implied, .rra (.absY w),
   .nopUndoc 0x7C (.absX w), .adc (.mem (.absX w)), .ror (.mem (.absX w)), .rra (.absX w)]

/-- Row 8x of the NMOS map (rule R88). -/
def nmosRow8 (b : Byte) (w : Word) : List Instr :=
  [.nopUndoc 0x80 (.imm b), .sta (.indX b), .nopUndoc 0x82 (.imm b), .sax (.indX b),
   .sty (.zp b), .sta (.zp b), .stx (.zp b), .sax (.zp b),
   .dey, .nopUndoc 0x89 (.imm b), .txa, .xaa b,
   .sty (.abs w), .sta (.abs w), .stx (.abs w), .sax (.abs w)]

/-- Row 9x of the NMOS map (rule R88). -/
def nmosRow9 (b : Byte) (w : Word) : List Instr :=
  [.bcc b, .sta (.indY b), .jam 0x92 b, .ahx (.indY b),
   .sty (.zpX b), .sta (.zpX b), .stx (.zpY b), .sax (.zpY b),
   .tya, .sta (.absY w), .txs, .tas w,
   .shy w, .sta (.absX w), .shx w, .ahx (.absY w)]

/-- Row Ax of the NMOS map (rule R88). -/
def nmosRowA (b : Byte) (w : Word) : List Instr :=
  [.ldy (.imm b), .lda (.mem (.indX b)), .ldx (.imm b), .lax (.indX b),
   .ldy (.mem (.zp b)), .lda (.mem (.zp b)), .ldx (.mem (.zp b)), .lax (.zp b),
   .tay, .lda (.imm b), .tax, .lxa b,
   .ldy (.mem (.abs w)), .lda (.mem (.abs w)), .ldx (.mem (.abs w)), .lax (.abs w)]

/-- Row Bx of the NMOS map (rule R88). -/
def nmosRowB (b : Byte) (w : Word) : List Instr :=
  [.bcs b, .lda (.mem (.indY b)), .jam 0xB2 b, .lax (.indY b),
   .ldy (.mem (.zpX b)), .lda (.mem (.zpX b)), .ldx (.mem (.zpY b)), .lax (.zpY b),
   .clv, .lda (.mem (.absY w)), .tsx, .las w,
   .ldy (.mem (.absX w)), .lda (.mem (.absX w)), .ldx (.mem (.absY w)), .lax (.absY w)]

/-- Row Cx of the NMOS map (rule R88). -/
def nmosRowC (b : Byte) (w : Word) : List Instr :=
  [.cpy (.imm b), .cmp (.mem (.indX b)), .nopUndoc 0xC2 (.imm b), .dcp (.indX b),
   .cpy (.mem (.zp b)), .cmp (.mem (.zp b)), .dec (.zp b), .dcp (.zp b),
   .iny, .cmp (.imm b), .dex, .axs b,
   .cpy (.mem (.abs w)), .cmp (.mem (.abs w)), .dec (.abs w), .dcp (.abs w)]

/-- Row Dx of the NMOS map (rule R88). -/
def nmosRowD (b : Byte) (w : Word) : List Instr :=
  [.bne b, .cmp (.mem (.indY b)), .jam 0xD2 b, .dcp (.indY b),
   .nopUndoc 0xD4 (.zpX b), .cmp (.mem (.zpX b)), .dec (.zpX b), .dcp (.zpX b),
   .cld, .cmp (.mem (.absY w)), .nopUndoc 0xDA .implied, .dcp (.absY w),
   .nopUndoc 0xDC (.absX w), .cmp (.mem (.absX w)), .dec (.absX w), .dcp (.absX w)]

/-- Row Ex of the NMOS map (rule R88). -/
def nmosRowE (b : Byte) (w : Word) : List Instr :=
  [.cpx (.imm b), .sbc (.mem (.indX b)), .nopUndoc 0xE2 (.imm b), .isb (.indX b),
   .cpx (.mem (.zp b)), .sbc (.mem (.zp b)), .inc (.zp b), .isb (.zp b),
   .inx, .sbc (.imm b), .nop, .sbcEb b,
   .cpx (.mem (.abs w)), .sbc (.mem (.abs w)), .inc (.abs w), .isb (.abs w)]

/-- Row Fx of the NMOS map (rule R88). -/
def nmosRowF (b : Byte) (w : Word) : List Instr :=
  [.beq b, .sbc (.mem (.indY b)), .jam 0xF2 b, .isb (.indY b),
   .nopUndoc 0xF4 (.zpX b), .sbc (.mem (.zpX b)), .inc (.zpX b), .isb (.zpX b),
   .sed, .sbc (.mem (.absY w)), .nopUndoc 0xFA .implied, .isb (.absY w),
   .nopUndoc 0xFC (.absX w), .sbc (.mem (.absX w)), .inc (.absX w), .isb (.absX w)]

/-- The NMOS dispatch table (rule R88): the instruction of each opcode byte, given its operand as a byte and as a word. -/
def nmosMap (b : Byte) (w : Word) : List Instr :=
  nmosRow0 b w ++ nmosRow1 b w ++ nmosRow2 b w ++ nmosRow3 b w ++
  nmosRow4 b w ++ nmosRow5 b w ++ nmosRow6 b w ++ nmosRow7 b w ++
  nmosRow8 b w ++ nmosRow9 b w ++ nmosRowA b w ++ nmosRowB b w ++
  nmosRowC b w ++ nmosRowD b w ++ nmosRowE b w ++ nmosRowF b w

/-- Row 0x of the CMOS map (rule R89). -/
def cmosRow0 (b : Byte) (w : Word) : List Instr :=
  [.brk, .ora (.mem (.indX b)), .nopBad 0x02 (.two b), .nopBad 0x03 .one,
   .tsb (.zp b), .ora (.mem (.zp b)), .asl (.mem (.zp b)), .nopBad 0x07 .one,
   .php, .ora (.imm b), .asl .acc, .nopBad 0x0B .one,
   .tsb (.abs w), .ora (.mem (.abs w)), .asl (.mem (.abs w)), .nopBad 0x0F .one]

/-- Row 1x of the CMOS map (rule R89). -/
def cmosRow1 (b : Byte) (w : Word) : List Instr :=
  [.bpl b, .ora (.mem (.indY b)), .ora (.mem (.ind b)), .nopBad 0x13 .one,
   .trb (.zp b), .ora (.mem (.zpX b)), .asl (.mem (.zpX b)), .nopBad 0x17 .one,
   .clc, .ora (.mem (.absY w)), .ina, .nopBad 0x1B .one,
   .trb (.abs w), .ora (.mem (.absX w)), .asl (.mem (.absX w)), .nopBad 0x1F .one]

/-- Row 2x of the CMOS map (rule R89). -/
def cmosRow2 (b : Byte) (w : Word) : List Instr :=
  [.jsr w, .and (.mem (.indX b)), .nopBad 0x22 (.two b), .nopBad 0x23 .one,
   .bit (.zp b), .and (.mem (.zp b)), .rol (.mem (.zp b)), .nopBad 0x27 .one,
   .plp, .and (.imm b), .rol .acc, .nopBad 0x2B .one,
   .bit (.abs w), .and (.mem (.abs w)), .rol (.mem (.abs w)), .nopBad 0x2F .one]

/-- Row 3x of the CMOS map (rule R89). -/
def cmosRow3 (b : Byte) (w : Word) : List Instr :=
  [.bmi b, .and (.mem (.indY b)), .and (.mem (.ind b)), .nopBad 0x33 .one,
   .bit (.zpX b), .and (.mem (.zpX b)), .rol (.mem (.zpX b)), .nopBad 0x37 .one,
   .sec, .and (.mem (.absY w)), .dea, .nopBad 0x3B .one,
   .bit (.absX w), .and (.mem (.absX w)), .rol (.mem (.absX w)), .nopBad 0x3F .one]

/-- Row 4x of the CMOS map (rule R89). -/
def cmosRow4 (b : Byte) (w : Word) : List Instr :=
  [.rti, .eor (.mem (.indX b)), .nopBad 0x42 (.two b), .nopBad 0x43 .one,
   .nopBad 0x44 (.two b), .eor (.mem (.zp b)), .lsr (.mem (.zp b)), .nopBad 0x47 .one,
   .pha, .eor (.imm b), .lsr .acc, .nopBad 0x4B .one,
   .jmp (.abs w), .eor (.mem (.abs w)), .lsr (.mem (.abs w)), .nopBad 0x4F .one]

/-- Row 5x of the CMOS map (rule R89). -/
def cmosRow5 (b : Byte) (w : Word) : List Instr :=
  [.bvc b, .eor (.mem (.indY b)), .eor (.mem (.ind b)), .nopBad 0x53 .one,
   .nopBad 0x54 (.two b), .eor (.mem (.zpX b)), .lsr (.mem (.zpX b)), .nopBad 0x57 .one,
   .cli, .eor (.mem (.absY w)), .phy, .nopBad 0x5B .one,
   .nopBad 0x5C (.three w), .eor (.mem (.absX w)), .lsr (.mem (.absX w)), .nopBad 0x5F .one]

/-- Row 6x of the CMOS map (rule R89). -/
def cmosRow6 (b : Byte) (w : Word) : List Instr :=
  [.rts, .adc (.mem (.indX b)), .nopBad 0x62 (.two b), .nopBad 0x63 .one,
   .stz (.zp b), .adc (.mem (.zp b)), .ror (.mem (.zp b)), .nopBad 0x67 .one,
   .pla, .adc (.imm b), .ror .acc, .nopBad 0x6B .one,
   .jmp (.ind w), .adc (.mem (.abs w)), .ror (.mem (.abs w)), .nopBad 0x6F .one]

/-- Row 7x of the CMOS map (rule R89). -/
def cmosRow7 (b : Byte) (w : Word) : List Instr :=
  [.bvs b, .adc (.mem (.indY b)), .adc (.mem (.ind b)), .nopBad 0x73 .one,
   .stz (.zpX b), .adc (.mem (.zpX b)), .ror (.mem (.zpX b)), .nopBad 0x77 .one,
   .sei, .adc (.mem (.absY w)), .ply, .nopBad 0x7B .one,
   .jmp (.indX w), .adc (.mem (.absX w)), .ror (.mem (.absX w)), .nopBad 0x7F .one]

/-- Row 8x of the CMOS map (rule R89). -/
def cmosRow8 (b : Byte) (w : Word) : List Instr :=
  [.bra b, .sta (.indX b), .nopBad 0x82 (.two b), .nopBad 0x83 .one,
   .sty (.zp b), .sta (.zp b), .stx (.zp b), .nopBad 0x87 .one,
   .dey, .bitImm b, .txa, .nopBad 0x8B .one,
   .sty (.abs w), .sta (.abs w), .stx (.abs w), .nopBad 0x8F .one]

/-- Row 9x of the CMOS map (rule R89). -/
def cmosRow9 (b : Byte) (w : Word) : List Instr :=
  [.bcc b, .sta (.indY b), .sta (.ind b), .nopBad 0x93 .one,
   .sty (.zpX b), .sta (.zpX b), .stx (.zpY b), .nopBad 0x97 .one,
   .tya, .sta (.absY w), .txs, .nopBad 0x9B .one,
   .stz (.abs w), .sta (.absX w), .stz (.absX w), .nopBad 0x9F .one]

/-- Row Ax of the CMOS map (rule R89). -/
def cmosRowA (b : Byte) (w : Word) : List Instr :=
  [.ldy (.imm b), .lda (.mem (.indX b)), .ldx (.imm b), .nopBad 0xA3 .one,
   .ldy (.mem (.zp b)), .lda (.mem (.zp b)), .ldx (.mem (.zp b)), .nopBad 0xA7 .one,
   .tay, .lda (.imm b), .tax, .nopBad 0xAB .one,
   .ldy (.mem (.abs w)), .lda (.mem (.abs w)), .ldx (.mem (.abs w)), .nopBad 0xAF .one]

/-- Row Bx of the CMOS map (rule R89). -/
def cmosRowB (b : Byte) (w : Word) : List Instr :=
  [.bcs b, .lda (.mem (.indY b)), .lda (.mem (.ind b)), .nopBad 0xB3 .one,
   .ldy (.mem (.zpX b)), .lda (.mem (.zpX b)), .ldx (.mem (.zpY b)), .nopBad 0xB7 .one,
   .clv, .lda (.mem (.absY w)), .tsx, .nopBad 0xBB .one,
   .ldy (.mem (.absX w)), .lda (.mem (.absX w)), .ldx (.mem (.absY w)), .nopBad 0xBF .one]

/-- Row Cx of the CMOS map (rule R89). -/
def cmosRowC (b : Byte) (w : Word) : List Instr :=
  [.cpy (.imm b), .cmp (.mem (.indX b)), .nopBad 0xC2 (.two b), .nopBad 0xC3 .one,
   .cpy (.mem (.zp b)), .cmp (.mem (.zp b)), .dec (.zp b), .nopBad 0xC7 .one,
   .iny, .cmp (.imm b), .dex, .nopBad 0xCB .one,
   .cpy (.mem (.abs w)), .cmp (.mem (.abs w)), .dec (.abs w), .nopBad 0xCF .one]

/-- Row Dx of the CMOS map (rule R89). -/
def cmosRowD (b : Byte) (w : Word) : List Instr :=
  [.bne b, .cmp (.mem (.indY b)), .cmp (.mem (.ind b)), .nopBad 0xD3 .one,
   .nopBad 0xD4 (.two b), .cmp (.mem (.zpX b)), .dec (.zpX b), .nopBad 0xD7 .one,
   .cld, .cmp (.mem (.absY w)), .phx, .nopBad 0xDB .one,
   .nopBad 0xDC (.three w), .cmp (.mem (.absX w)), .dec (.absX w), .nopBad 0xDF .one]

/-- Row Ex of the CMOS map (rule R89). -/
def cmosRowE (b : Byte) (w : Word) : List Instr :=
  [.cpx (.imm b), .sbc (.mem (.indX b)), .nopBad 0xE2 (.two b), .nopBad 0xE3 .one,
   .cpx (.mem (.zp b)), .sbc (.mem (.zp b)), .inc (.zp b), .nopBad 0xE7 .one,
   .inx, .sbc (.imm b), .nop, .nopBad 0xEB .one,
   .cpx (.mem (.abs w)), .sbc (.mem (.abs w)), .inc (.abs w), .nopBad 0xEF .one]

/-- Row Fx of the CMOS map (rule R89). -/
def cmosRowF (b : Byte) (w : Word) : List Instr :=
  [.beq b, .sbc (.mem (.indY b)), .sbc (.mem (.ind b)), .nopBad 0xF3 .one,
   .nopBad 0xF4 (.two b), .sbc (.mem (.zpX b)), .inc (.zpX b), .nopBad 0xF7 .one,
   .sed, .sbc (.mem (.absY w)), .plx, .nopBad 0xFB .one,
   .nopBad 0xFC (.three w), .sbc (.mem (.absX w)), .inc (.absX w), .nopBad 0xFF .one]

/-- The CMOS dispatch table (rule R89): the instruction of each opcode byte, given its operand as a byte and as a word. -/
def cmosMap (b : Byte) (w : Word) : List Instr :=
  cmosRow0 b w ++ cmosRow1 b w ++ cmosRow2 b w ++ cmosRow3 b w ++
  cmosRow4 b w ++ cmosRow5 b w ++ cmosRow6 b w ++ cmosRow7 b w ++
  cmosRow8 b w ++ cmosRow9 b w ++ cmosRowA b w ++ cmosRowB b w ++
  cmosRowC b w ++ cmosRowD b w ++ cmosRowE b w ++ cmosRowF b w

/-- The instruction of an opcode byte and its two operand bytes (rules R90, R102). The absolute operand is `b2 ++ b1` (rule
R87). The table has an entry for each of the 256 bytes, so the default is never taken. -/
def decodeOp (v : Variant) (op b1 b2 : Byte) : Instr :=
  match v with
  | .nmos => (nmosMap b1 (joinBytes b2 b1)).getD op.toNat .nop
  | .cmos => (cmosMap b1 (joinBytes b2 b1)).getD op.toNat .nop

/-- Base cycles of the NMOS map, rows 0x to 7x (rule R88). -/
def nmosBaseLow : List Nat :=
  [7, 6, 2, 8, 3, 3, 5, 5, 3, 2, 2, 2, 4, 4, 6, 6,
   2, 5, 2, 8, 4, 4, 6, 6, 2, 4, 2, 7, 4, 4, 7, 7,
   6, 6, 2, 8, 3, 3, 5, 5, 4, 2, 2, 2, 4, 4, 6, 6,
   2, 5, 2, 8, 4, 4, 6, 6, 2, 4, 2, 7, 4, 4, 7, 7,
   6, 6, 2, 8, 3, 3, 5, 5, 3, 2, 2, 2, 3, 4, 6, 6,
   2, 5, 2, 8, 4, 4, 6, 6, 2, 4, 2, 7, 4, 4, 7, 7,
   6, 6, 2, 8, 3, 3, 5, 5, 4, 2, 2, 2, 5, 4, 6, 6,
   2, 5, 2, 8, 4, 4, 6, 6, 2, 4, 2, 7, 4, 4, 7, 7]

/-- Base cycles of the NMOS map, rows 8x to Fx (rule R88). -/
def nmosBaseHigh : List Nat :=
  [2, 6, 2, 6, 3, 3, 3, 3, 2, 2, 2, 2, 4, 4, 4, 4,
   2, 6, 2, 6, 4, 4, 4, 4, 2, 5, 2, 5, 5, 5, 5, 5,
   2, 6, 2, 6, 3, 3, 3, 3, 2, 2, 2, 2, 4, 4, 4, 4,
   2, 5, 2, 5, 4, 4, 4, 4, 2, 4, 2, 4, 4, 4, 4, 4,
   2, 6, 2, 8, 3, 3, 5, 5, 2, 2, 2, 2, 4, 4, 6, 6,
   2, 5, 2, 8, 4, 4, 6, 6, 2, 4, 2, 7, 4, 4, 7, 7,
   2, 6, 2, 8, 3, 3, 5, 5, 2, 2, 2, 2, 4, 4, 6, 6,
   2, 5, 2, 8, 4, 4, 6, 6, 2, 4, 2, 7, 4, 4, 7, 7]

/-- The bytes the NMOS map marks `+`: those that pay the read-type page-cross penalty (rule R88). -/
def nmosPlus : List Byte :=
  [0x11, 0x19, 0x1C, 0x1D, 0x31, 0x39, 0x3C, 0x3D, 0x51, 0x59, 0x5C, 0x5D,
   0x71, 0x79, 0x7C, 0x7D, 0xB1, 0xB3, 0xB9, 0xBB, 0xBC, 0xBD, 0xBE, 0xBF,
   0xD1, 0xD9, 0xDC, 0xDD, 0xF1, 0xF9, 0xFC, 0xFD]

/-- Base cycles of the CMOS map, rows 0x to 7x (rule R89). -/
def cmosBaseLow : List Nat :=
  [7, 6, 2, 1, 5, 3, 5, 1, 3, 2, 2, 1, 6, 4, 6, 1,
   2, 5, 5, 1, 5, 4, 6, 1, 2, 4, 2, 1, 6, 4, 7, 1,
   6, 6, 2, 1, 3, 3, 5, 1, 4, 2, 2, 1, 4, 4, 6, 1,
   2, 5, 5, 1, 4, 4, 6, 1, 2, 4, 2, 1, 4, 4, 7, 1,
   6, 6, 2, 1, 3, 3, 5, 1, 3, 2, 2, 1, 3, 4, 6, 1,
   2, 5, 5, 1, 4, 4, 6, 1, 2, 4, 3, 1, 7, 4, 7, 1,
   6, 6, 2, 1, 3, 3, 5, 1, 4, 2, 2, 1, 6, 4, 6, 1,
   2, 5, 5, 1, 4, 4, 6, 1, 2, 4, 4, 1, 6, 4, 7, 1]

/-- Base cycles of the CMOS map, rows 8x to Fx (rule R89). -/
def cmosBaseHigh : List Nat :=
  [2, 6, 2, 1, 3, 3, 3, 1, 2, 2, 2, 1, 4, 4, 4, 1,
   2, 6, 5, 1, 4, 4, 4, 1, 2, 5, 2, 1, 4, 5, 5, 1,
   2, 6, 2, 1, 3, 3, 3, 1, 2, 2, 2, 1, 4, 4, 4, 1,
   2, 5, 5, 1, 4, 4, 4, 1, 2, 4, 2, 1, 4, 4, 4, 1,
   2, 6, 2, 1, 3, 3, 5, 1, 2, 2, 2, 1, 4, 4, 6, 1,
   2, 5, 5, 1, 4, 4, 6, 1, 2, 4, 3, 1, 4, 4, 7, 1,
   2, 6, 2, 1, 3, 3, 5, 1, 2, 2, 2, 1, 4, 4, 6, 1,
   2, 5, 5, 1, 4, 4, 6, 1, 2, 4, 4, 1, 4, 4, 7, 1]

/-- The bytes the CMOS map marks `+`: those that pay the read-type page-cross penalty (rule R89). -/
def cmosPlus : List Byte :=
  [0x11, 0x19, 0x1D, 0x31, 0x39, 0x3C, 0x3D, 0x51, 0x59, 0x5D, 0x71, 0x79,
   0x7D, 0xB1, 0xB9, 0xBC, 0xBD, 0xBE, 0xD1, 0xD9, 0xDD, 0xF1, 0xF9, 0xFD]

/-- The base cycles of a table entry (rule R102). The meanings compute their costs from the mode rules (rules R113 to R127);
this table is the map they are checked against. DEDUCED (log entry 17): BRA has 2, where the CMOS map prints its least
total 3. -/
def mapBase (v : Variant) (op : Byte) : Nat :=
  match v with
  | .nmos => (nmosBaseLow ++ nmosBaseHigh).getD op.toNat 2
  | .cmos => (cmosBaseLow ++ cmosBaseHigh).getD op.toNat 2

/-- The page-cross flag `pp` of a table entry (rule R102). -/
def mapPlus (v : Variant) (op : Byte) : Bool :=
  match v with
  | .nmos => nmosPlus.contains op
  | .cmos => cmosPlus.contains op

/-- A word's operand bytes in the instruction stream, low byte first (rules R64, R87). -/
def wordBytes (w : Word) : List Byte := [loByte w, hiByte w]

/-- The operand bytes of a mode, in address order (rule R80). -/
def EaMode.operands : EaMode → List Byte
  | .zp b => [b]
  | .zpX b => [b]
  | .zpY b => [b]
  | .abs w => wordBytes w
  | .absX w => wordBytes w
  | .absY w => wordBytes w
  | .ind b => [b]
  | .indX b => [b]
  | .indY b => [b]

/-- The operand bytes of a read-kind operand (rule R80). -/
def ReadOp.operands : ReadOp → List Byte
  | .imm b => [b]
  | .mem m => m.operands

/-- The operand bytes of a shift or rotate (rule R80). -/
def RmwOp.operands : RmwOp → List Byte
  | .acc => []
  | .mem m => m.operands

/-- The operand bytes of a jump (rule R80). -/
def JmpMode.operands : JmpMode → List Byte
  | .abs w => wordBytes w
  | .ind w => wordBytes w
  | .indX w => wordBytes w

/-- The operand bytes of an undocumented NMOS NOP (rule R421). -/
def NopForm.operands : NopForm → List Byte
  | .implied => []
  | .imm b => [b]
  | .zp b => [b]
  | .zpX b => [b]
  | .abs w => wordBytes w
  | .absX w => wordBytes w

/-- The operand bytes of a CMOS bad opcode (rule R460). -/
def BadForm.operands : BadForm → List Byte
  | .one => []
  | .two b => [b]
  | .three w => wordBytes w

/-- The operand bytes of an instruction, in address order (rule R80). -/
def Instr.operands : Instr → List Byte
  | .lda r => r.operands
  | .ldx r => r.operands
  | .ldy r => r.operands
  | .sta m => m.operands
  | .stx m => m.operands
  | .sty m => m.operands
  | .stz m => m.operands
  | .tax => []
  | .tay => []
  | .txa => []
  | .tya => []
  | .tsx => []
  | .txs => []
  | .ora r => r.operands
  | .and r => r.operands
  | .eor r => r.operands
  | .adc r => r.operands
  | .sbc r => r.operands
  | .sbcEb b => [b]
  | .cmp r => r.operands
  | .cpx r => r.operands
  | .cpy r => r.operands
  | .bit m => m.operands
  | .bitImm b => [b]
  | .asl r => r.operands
  | .lsr r => r.operands
  | .rol r => r.operands
  | .ror r => r.operands
  | .inc m => m.operands
  | .dec m => m.operands
  | .inx => []
  | .iny => []
  | .dex => []
  | .dey => []
  | .ina => []
  | .dea => []
  | .tsb m => m.operands
  | .trb m => m.operands
  | .bpl b => [b]
  | .bmi b => [b]
  | .bvc b => [b]
  | .bvs b => [b]
  | .bcc b => [b]
  | .bcs b => [b]
  | .bne b => [b]
  | .beq b => [b]
  | .bra b => [b]
  | .jmp m => m.operands
  | .jsr w => wordBytes w
  | .rts => []
  | .pha => []
  | .php => []
  | .pla => []
  | .plp => []
  | .phx => []
  | .phy => []
  | .plx => []
  | .ply => []
  | .brk => []
  | .rti => []
  | .clc => []
  | .sec => []
  | .cli => []
  | .sei => []
  | .clv => []
  | .cld => []
  | .sed => []
  | .nop => []
  | .slo m => m.operands
  | .rla m => m.operands
  | .sre m => m.operands
  | .rra m => m.operands
  | .dcp m => m.operands
  | .isb m => m.operands
  | .sax m => m.operands
  | .lax m => m.operands
  | .lxa b => [b]
  | .anc b => [b]
  | .anc2b b => [b]
  | .alr b => [b]
  | .arr b => [b]
  | .xaa b => [b]
  | .axs b => [b]
  | .las w => wordBytes w
  | .ahx m => m.operands
  | .tas w => wordBytes w
  | .shy w => wordBytes w
  | .shx w => wordBytes w
  | .nopUndoc _ f => f.operands
  | .jam _ b => [b]
  | .nopBad _ f => f.operands

/-- The length of an instruction in bytes: 1, 2 or 3 (rule R80). -/
def Instr.length (i : Instr) : Nat := 1 + i.operands.length

/-- The length in bytes of the instruction an opcode byte starts; it depends on nothing else but the variant (rule R80). -/
def opLength (v : Variant) (op : Byte) : Nat := (decodeOp v op 0 0).length

/-- Why a list of bytes is no instruction. No opcode byte is refused (rule R92), so only missing bytes are. -/
inductive DecodeError where
  /-- There is no opcode byte. -/
  | noOpcode
  /-- The opcode byte's operand bytes are not all there. -/
  | missingOperand
deriving DecidableEq, Repr

/-- Reads one instruction off the front of a list of bytes and gives the rest (rule R80). -/
def decode (v : Variant) : List Byte → Except DecodeError (Instr × List Byte)
  | [] => .error .noOpcode
  | op :: bytes =>
    match opLength v op, bytes with
    | 1, rest => .ok (decodeOp v op 0 0, rest)
    | 2, b1 :: rest => .ok (decodeOp v op b1 0, rest)
    | 3, b1 :: b2 :: rest => .ok (decodeOp v op b1 b2, rest)
    | _, _ => .error .missingOperand

/-! ### The encoder -/

/-- The opcode bytes of one instruction by effective-address mode. -/
structure EaCodes where
  zp : Option Byte := none
  zpX : Option Byte := none
  zpY : Option Byte := none
  abs : Option Byte := none
  absX : Option Byte := none
  absY : Option Byte := none
  ind : Option Byte := none
  indX : Option Byte := none
  indY : Option Byte := none
deriving DecidableEq, Repr

/-- The opcode byte of a mode. -/
def EaMode.code (m : EaMode) (c : EaCodes) : Option Byte :=
  match m with
  | .zp _ => c.zp
  | .zpX _ => c.zpX
  | .zpY _ => c.zpY
  | .abs _ => c.abs
  | .absX _ => c.absX
  | .absY _ => c.absY
  | .ind _ => c.ind
  | .indX _ => c.indX
  | .indY _ => c.indY

/-- The opcode byte of a read-kind operand. -/
def ReadOp.code (r : ReadOp) (imm : Byte) (c : EaCodes) : Option Byte :=
  match r with
  | .imm _ => some imm
  | .mem m => m.code c

/-- The opcode byte of a shift's or rotate's operand. -/
def RmwOp.code (r : RmwOp) (acc : Byte) (c : EaCodes) : Option Byte :=
  match r with
  | .acc => some acc
  | .mem m => m.code c

/-- A byte the encoding has on CMOS only. -/
def cmosOnly (v : Variant) (op : Byte) : Option Byte :=
  match v with
  | .nmos => none
  | .cmos => some op

/-- A byte the encoding has on NMOS only. -/
def nmosOnly (v : Variant) (op : Byte) : Option Byte :=
  match v with
  | .nmos => some op
  | .cmos => none

/-- An opcode byte the instruction itself carries, where the rule lists it. -/
def listedByte (ok : Bool) (op : Byte) : Option Byte := if ok then some op else none

/-- The opcode byte of an instruction of the variant, from its rule's **Encoding** entry; `none` where the variant does not
have the form. -/
def opcode? (v : Variant) : Instr → Option Byte
  | .lda r => r.code 0xA9
      { zp := some 0xA5, zpX := some 0xB5, abs := some 0xAD, absX := some 0xBD,
        absY := some 0xB9, indX := some 0xA1, indY := some 0xB1, ind := cmosOnly v 0xB2 }
  | .ldx r => r.code 0xA2 { zp := some 0xA6, zpY := some 0xB6, abs := some 0xAE, absY := some 0xBE }
  | .ldy r => r.code 0xA0 { zp := some 0xA4, zpX := some 0xB4, abs := some 0xAC, absX := some 0xBC }
  | .sta m => m.code
      { zp := some 0x85, zpX := some 0x95, abs := some 0x8D, absX := some 0x9D,
        absY := some 0x99, indX := some 0x81, indY := some 0x91, ind := cmosOnly v 0x92 }
  | .stx m => m.code { zp := some 0x86, zpY := some 0x96, abs := some 0x8E }
  | .sty m => m.code { zp := some 0x84, zpX := some 0x94, abs := some 0x8C }
  | .stz m => m.code { zp := cmosOnly v 0x64, zpX := cmosOnly v 0x74, abs := cmosOnly v 0x9C, absX := cmosOnly v 0x9E }
  | .tax => some 0xAA
  | .tay => some 0xA8
  | .txa => some 0x8A
  | .tya => some 0x98
  | .tsx => some 0xBA
  | .txs => some 0x9A
  | .ora r => r.code 0x09
      { zp := some 0x05, zpX := some 0x15, abs := some 0x0D, absX := some 0x1D,
        absY := some 0x19, indX := some 0x01, indY := some 0x11, ind := cmosOnly v 0x12 }
  | .and r => r.code 0x29
      { zp := some 0x25, zpX := some 0x35, abs := some 0x2D, absX := some 0x3D,
        absY := some 0x39, indX := some 0x21, indY := some 0x31, ind := cmosOnly v 0x32 }
  | .eor r => r.code 0x49
      { zp := some 0x45, zpX := some 0x55, abs := some 0x4D, absX := some 0x5D,
        absY := some 0x59, indX := some 0x41, indY := some 0x51, ind := cmosOnly v 0x52 }
  | .adc r => r.code 0x69
      { zp := some 0x65, zpX := some 0x75, abs := some 0x6D, absX := some 0x7D,
        absY := some 0x79, indX := some 0x61, indY := some 0x71, ind := cmosOnly v 0x72 }
  | .sbc r => r.code 0xE9
      { zp := some 0xE5, zpX := some 0xF5, abs := some 0xED, absX := some 0xFD,
        absY := some 0xF9, indX := some 0xE1, indY := some 0xF1, ind := cmosOnly v 0xF2 }
  | .sbcEb _ => nmosOnly v 0xEB
  | .cmp r => r.code 0xC9
      { zp := some 0xC5, zpX := some 0xD5, abs := some 0xCD, absX := some 0xDD,
        absY := some 0xD9, indX := some 0xC1, indY := some 0xD1, ind := cmosOnly v 0xD2 }
  | .cpx r => r.code 0xE0 { zp := some 0xE4, abs := some 0xEC }
  | .cpy r => r.code 0xC0 { zp := some 0xC4, abs := some 0xCC }
  | .bit m => m.code { zp := some 0x24, abs := some 0x2C, zpX := cmosOnly v 0x34, absX := cmosOnly v 0x3C }
  | .bitImm _ => cmosOnly v 0x89
  | .asl r => r.code 0x0A { zp := some 0x06, zpX := some 0x16, abs := some 0x0E, absX := some 0x1E }
  | .lsr r => r.code 0x4A { zp := some 0x46, zpX := some 0x56, abs := some 0x4E, absX := some 0x5E }
  | .rol r => r.code 0x2A { zp := some 0x26, zpX := some 0x36, abs := some 0x2E, absX := some 0x3E }
  | .ror r => r.code 0x6A { zp := some 0x66, zpX := some 0x76, abs := some 0x6E, absX := some 0x7E }
  | .inc m => m.code { zp := some 0xE6, zpX := some 0xF6, abs := some 0xEE, absX := some 0xFE }
  | .dec m => m.code { zp := some 0xC6, zpX := some 0xD6, abs := some 0xCE, absX := some 0xDE }
  | .inx => some 0xE8
  | .iny => some 0xC8
  | .dex => some 0xCA
  | .dey => some 0x88
  | .ina => cmosOnly v 0x1A
  | .dea => cmosOnly v 0x3A
  | .tsb m => m.code { zp := cmosOnly v 0x04, abs := cmosOnly v 0x0C }
  | .trb m => m.code { zp := cmosOnly v 0x14, abs := cmosOnly v 0x1C }
  | .bpl _ => some 0x10
  | .bmi _ => some 0x30
  | .bvc _ => some 0x50
  | .bvs _ => some 0x70
  | .bcc _ => some 0x90
  | .bcs _ => some 0xB0
  | .bne _ => some 0xD0
  | .beq _ => some 0xF0
  | .bra _ => cmosOnly v 0x80
  | .jmp (.abs _) => some 0x4C
  | .jmp (.ind _) => some 0x6C
  | .jmp (.indX _) => cmosOnly v 0x7C
  | .jsr _ => some 0x20
  | .rts => some 0x60
  | .pha => some 0x48
  | .php => some 0x08
  | .pla => some 0x68
  | .plp => some 0x28
  | .phx => cmosOnly v 0xDA
  | .phy => cmosOnly v 0x5A
  | .plx => cmosOnly v 0xFA
  | .ply => cmosOnly v 0x7A
  | .brk => some 0x00
  | .rti => some 0x40
  | .clc => some 0x18
  | .sec => some 0x38
  | .cli => some 0x58
  | .sei => some 0x78
  | .clv => some 0xB8
  | .cld => some 0xD8
  | .sed => some 0xF8
  | .nop => some 0xEA
  | .slo m => m.code
      { zp := nmosOnly v 0x07, zpX := nmosOnly v 0x17, abs := nmosOnly v 0x0F,
        absX := nmosOnly v 0x1F, absY := nmosOnly v 0x1B, indX := nmosOnly v 0x03, indY := nmosOnly v 0x13 }
  | .rla m => m.code
      { zp := nmosOnly v 0x27, zpX := nmosOnly v 0x37, abs := nmosOnly v 0x2F,
        absX := nmosOnly v 0x3F, absY := nmosOnly v 0x3B, indX := nmosOnly v 0x23, indY := nmosOnly v 0x33 }
  | .sre m => m.code
      { zp := nmosOnly v 0x47, zpX := nmosOnly v 0x57, abs := nmosOnly v 0x4F,
        absX := nmosOnly v 0x5F, absY := nmosOnly v 0x5B, indX := nmosOnly v 0x43, indY := nmosOnly v 0x53 }
  | .rra m => m.code
      { zp := nmosOnly v 0x67, zpX := nmosOnly v 0x77, abs := nmosOnly v 0x6F,
        absX := nmosOnly v 0x7F, absY := nmosOnly v 0x7B, indX := nmosOnly v 0x63, indY := nmosOnly v 0x73 }
  | .dcp m => m.code
      { zp := nmosOnly v 0xC7, zpX := nmosOnly v 0xD7, abs := nmosOnly v 0xCF,
        absX := nmosOnly v 0xDF, absY := nmosOnly v 0xDB, indX := nmosOnly v 0xC3, indY := nmosOnly v 0xD3 }
  | .isb m => m.code
      { zp := nmosOnly v 0xE7, zpX := nmosOnly v 0xF7, abs := nmosOnly v 0xEF,
        absX := nmosOnly v 0xFF, absY := nmosOnly v 0xFB, indX := nmosOnly v 0xE3, indY := nmosOnly v 0xF3 }
  | .sax m => m.code { zp := nmosOnly v 0x87, zpY := nmosOnly v 0x97, abs := nmosOnly v 0x8F, indX := nmosOnly v 0x83 }
  | .lax m => m.code
      { zp := nmosOnly v 0xA7, zpY := nmosOnly v 0xB7, abs := nmosOnly v 0xAF,
        absY := nmosOnly v 0xBF, indX := nmosOnly v 0xA3, indY := nmosOnly v 0xB3 }
  | .lxa _ => nmosOnly v 0xAB
  | .anc _ => nmosOnly v 0x0B
  | .anc2b _ => nmosOnly v 0x2B
  | .alr _ => nmosOnly v 0x4B
  | .arr _ => nmosOnly v 0x6B
  | .xaa _ => nmosOnly v 0x8B
  | .axs _ => nmosOnly v 0xCB
  | .las _ => nmosOnly v 0xBB
  | .ahx m => m.code { absY := nmosOnly v 0x9F, indY := nmosOnly v 0x93 }
  | .tas _ => nmosOnly v 0x9B
  | .shy _ => nmosOnly v 0x9C
  | .shx _ => nmosOnly v 0x9E
  | .nopUndoc op f => listedByte (v.isNmos && nopUndocOk op f) op
  | .jam op _ => listedByte (v.isNmos && jamOk op) op
  | .nopBad op f => listedByte (v.isCmos && nopBadOk op f) op

/-- The bytes of an instruction of the variant: opcode, then operands (rule R80). It is meant for a well-formed instruction,
and gives no byte for another. -/
def encode (v : Variant) (i : Instr) : List Byte :=
  match opcode? v i with
  | some op => op :: i.operands
  | none => []

/-! ### The table's words -/

/-- The instruction only charges cycles (rule R74). -/
def Instr.isNoEffect : Instr → Bool
  | .nop => true
  | .nopUndoc _ _ => true
  | .jam _ _ => true
  | .nopBad _ _ => true
  | _ => false

/-- The variant in which a word of spec/opcode_table.json, which names no variant, is read: NMOS, but CMOS for a byte that
only CMOS gives an effect. DESIGN CHOICE (log entry 9): the table has two rows for each byte, and with this choice every
mnemonic of either variant is some word's. -/
def tableVariant (op : Byte) : Variant :=
  if (decodeOp .nmos op 0 0).isNoEffect && !(decodeOp .cmos op 0 0).isNoEffect then .cmos else .nmos

/-- The byte at a place of an instruction whose first `nbits` bits are those of `w` and whose further bits are 0, the first
byte being bits 7 to 0. -/
def tableByte (nbits w place : Nat) : Byte := BitVec.ofNat 8 (w % 2 ^ nbits / 256 ^ place)

/-- The instruction the decoder reads from an instruction with bits `w`, of which the table gives `nbits`. -/
def decodeTableWord (nbits w : Nat) : Option Instr :=
  match decode (tableVariant (tableByte nbits w 0)) [tableByte nbits w 0, tableByte nbits w 1, tableByte nbits w 2] with
  | .ok (i, _) => some i
  | .error _ => none

end Sys2Proof
end

