-- ==== Sys2Proof/Machine/State.lean ====
section
/-! DEFINITION. The machine's state (spec/10_state.md), the reasons a step can stop, and the state after reset
(rule R551 of spec/70_reset_and_hazards.md). Plain data throughout. -/

namespace Sys2Proof.Machine

/-- The six stored status flags of rule R24. Bits 4 and 5 of the status byte are not state. -/
structure Flags where
  /-- N, bit 7: the sign of the last result. -/
  n : Bool
  /-- V, bit 6: signed overflow. -/
  v : Bool
  /-- D, bit 3: decimal mode. -/
  d : Bool
  /-- I, bit 2: IRQ disable. -/
  i : Bool
  /-- Z, bit 1: the last result was zero. -/
  z : Bool
  /-- C, bit 0: carry, or no borrow. -/
  c : Bool
deriving DecidableEq, Repr

/-- A call the core makes to the host: a handler's read or write (rule R56) or the breakout hook (rule R106). `clk` is the
cycle counter the call is told. -/
inductive HostCall where
  /-- `HandlerRead(b, addr)` and the byte it answered. -/
  | read (block : Nat) (addr : Word) (clk : Int) (answer : Byte)
  /-- `HandlerWrite(b, addr, v)`: the event that rule R56 records. -/
  | write (block : Nat) (addr : Word) (clk : Int) (value : Byte)
  /-- `breakout_hook(clk)`. -/
  | hook (clk : Int)
deriving DecidableEq, Repr

/-- Flat memory: address and byte, in strictly rising order of addresses, no entry equal to what an unlisted address reads
as (`Memory.wf` in Machine/Ops.lean). -/
abbrev Memory := List Host.Cell

/-- Everything the spec gives the machine, and three fields of the model's own: `params` (read only), and `hostLog` and
`draws`, which no instruction reads into a register or a flag. -/
structure State where
  /-- The parameters of this core (rule R31); no step writes them. -/
  params : Params
  /-- PC (rule R22). -/
  pc : Word
  /-- A (rule R20). -/
  a : Byte
  /-- X (rule R20). -/
  x : Byte
  /-- Y (rule R20). -/
  y : Byte
  /-- SP (rule R21). -/
  sp : Byte
  /-- P (rules R23 and R24). -/
  p : Flags
  /-- The cycle counter, an unbounded signed integer (rule R29, decision D4). -/
  clk : Int
  /-- The halted mark (rule R34). -/
  halted : Bool
  /-- The flat blocks' bytes (rule R55). -/
  mem : Memory
  /-- The calls made to the host, the newest first: the events of rule R56, in the order of rule R68. -/
  hostLog : List HostCall
  /-- How many free values have been drawn: the counter the opaque functions of Config are applied to. -/
  draws : Nat
deriving DecidableEq, Repr

/-- Why the machine stops. -/
inductive Fault where
  /-- The halted mark is set, so neither `step()` nor an interrupt entry applies (rules R34 and R510). Raised by the fetch and
  by the interrupt entries of Machine/HostEvents.lean, and only after a JAM with `NMOS_JAM_HALTS` true. Safe: the spec's own
  stuck state. -/
  | halted
deriving DecidableEq, Repr

/-- Why the model gives no next state. No step answers with one. -/
inductive Refusal where
  /-- An instruction without a meaning yet. No arm of `exec` answers with it. Safe. -/
  | notModelled (mnemonic : String)
  /-- The host asked for an IRQ entry while I = 1, which rule R502 does not permit. Raised by `hostEvent` alone. Safe. -/
  | irqMasked
deriving DecidableEq, Repr

/-- What a meaning, a step or a host transition answers. -/
abbrev Out := Host.Outcome State Fault Refusal

/-- The parameters of the core that reset starts. DESIGN CHOICE (log entry 4): NMOS, the original's 1 KiB blocks, every block
flat. `NMOS_JAM_HALTS` is the spec's default (rule R5); the OPEN parameters are free values. -/
def initialParams : Params where
  variant := .nmos
  blockSize := Config.originalBlockSize
  handlerBlocks := []
  nmosJamHalts := false
  xaaMagic := Config.xaaMagic
  lxaMagic := Config.lxaMagic
  shPageCrossCorrupts := Config.shPageCrossCorrupts

/-- The machine right after reset (rule R551): I = 1, not halted, the PC from the reset vector, which is two bytes of a
memory that lists nothing. DESIGN CHOICE (log entry 3), an unsafe one: A, X, Y, SP, N, V, Z, C and D, which the spec leaves
to a draw on NMOS, and `clk`, which it leaves to the host, are zero here; `hostReset` has the draws. -/
def State.reset : State where
  params := initialParams
  pc := Config.launchByte ++ Config.launchByte
  a := 0
  x := 0
  y := 0
  sp := 0
  p := { n := false, v := false, d := false, i := true, z := false, c := false }
  clk := 0
  halted := false
  mem := []
  hostLog := []
  draws := 0

end Sys2Proof.Machine
end

