-- ==== Sys2Proof/Machine/Flags.lean ====
section
/-! DEFINITION. The status byte (rules R23 to R26 of spec/10_state.md) and the flag computations of spec/42_alu.md,
spec/43_rmw.md and spec/46_nmos_undocumented.md. Sums and differences are formed exactly and narrowed at the end (rule R7). -/

namespace Sys2Proof.Machine

/-- `P_image(b)` of rule R25: bit 5 is 1, bit 4 is the break bit. -/
def statusImage (brk : Bool) (p : Flags) : Byte :=
  flagBit p.n 7 ||| flagBit p.v 6 ||| flagBit true 5 ||| flagBit brk 4 ||| flagBit p.d 3 ||| flagBit p.i 2 |||
    flagBit p.z 1 ||| flagBit p.c 0

/-- Loading the status from a byte (rule R25): bits 4 and 5 are dropped. -/
def statusLoad (v : Byte) : Flags where
  n := v.getLsbD 7
  v := v.getLsbD 6
  d := v.getLsbD 3
  i := v.getLsbD 2
  z := v.getLsbD 1
  c := v.getLsbD 0

/-- `SetNZ(v)` of rule R26. -/
def Flags.setNZ (p : Flags) (v : Byte) : Flags := { p with n := v.getLsbD 7, z := v == 0 }

/-- A result byte with the flags its computation gives. -/
structure FlagResult where
  res : Byte
  n : Bool
  v : Bool
  z : Bool
  c : Bool
deriving DecidableEq, Repr

/-- Writing N, V, Z and C of a result. -/
def Flags.setArith (p : Flags) (r : FlagResult) : Flags := { p with n := r.n, v := r.v, z := r.z, c := r.c }

/-- The signed overflow of an addition with result bits `res` (rule R200). -/
def addOverflow (a m res : Byte) : Bool := ((~~~(a ^^^ m)) &&& (a ^^^ res) &&& 0x80) != 0

/-- The signed overflow of a subtraction with result bits `res` (rule R201). -/
def subOverflow (a m res : Byte) : Bool := ((a ^^^ m) &&& (a ^^^ res) &&& 0x80) != 0

/-- `AdcBinary` (rule R200). -/
def adcBinary (a m : Byte) (c : Bool) : FlagResult :=
  let t := a.toNat + m.toNat + bitNat c
  let res := BitVec.ofNat 8 t
  { res := res, n := res.getLsbD 7, v := addOverflow a m res, z := res == 0, c := decide (t > 0xFF) }

/-- The low-nibble sum of `AdcDecimalNmos` after its digit carry (rule R207): `al`. -/
def adcLowDigit (a m : Byte) (c : Bool) : Nat :=
  let al := (a &&& 0x0F).toNat + (m &&& 0x0F).toNat + bitNat c
  if al > 9 then ((al - 10) &&& 0x0F) ||| 0x10 else al

/-- The uncorrected intermediate of `AdcDecimalNmos` (rule R207): `t` before the tens correction. -/
def adcIntermediate (a m : Byte) (c : Bool) : Nat :=
  (a &&& 0xF0).toNat + (m &&& 0xF0).toNat + adcLowDigit a m c

/-- `AdcDecimalNmos` (rule R207): N and V from the uncorrected intermediate, Z from the binary sum. -/
def adcDecimalNmos (a m : Byte) (c : Bool) : FlagResult :=
  let t := adcIntermediate a m c
  let tens := if t ≥ 0xA0 then t + 0x60 else t
  { res := BitVec.ofNat 8 tens
    n := t.testBit 7
    v := addOverflow a m (BitVec.ofNat 8 t)
    z := (a.toNat + m.toNat + bitNat c) % 256 == 0
    c := decide (tens ≥ 0x100) }

/-- `AdcDecimalCmos` (rule R208): as on NMOS, but N and Z from the corrected result. -/
def adcDecimalCmos (a m : Byte) (c : Bool) : FlagResult :=
  let r := adcDecimalNmos a m c
  { r with n := r.res.getLsbD 7, z := r.res == 0 }

/-- The result and flags of ADC (rule R206). -/
def adcResult (variant : Variant) (d : Bool) (a m : Byte) (c : Bool) : FlagResult :=
  match d, variant with
  | false, _ => adcBinary a m c
  | true, .nmos => adcDecimalNmos a m c
  | true, .cmos => adcDecimalCmos a m c

/-- The exact difference `a - m - (1 - c)` (rules R201 and R210). -/
def sbcDifference (a m : Byte) (c : Bool) : Int := (a.toNat : Int) - m.toNat - (1 - bitNat c)

/-- `SbcBinary` (rule R201): C is set when there is no borrow. -/
def sbcBinary (a m : Byte) (c : Bool) : FlagResult :=
  let t := sbcDifference a m c
  let res := BitVec.ofInt 8 t
  { res := res, n := res.getLsbD 7, v := subOverflow a m res, z := res == 0, c := decide (0 ≤ t) }

/-- Bit 4 of a digit difference, in two's complement (rule R210): the digit borrows. -/
def digitBorrow (t : Int) : Bool := (BitVec.ofInt 8 t).getLsbD 4

/-- A digit difference after its decimal correction (rule R210): 6 less if it borrows, then the low four bits. -/
def digitCorrect (t : Int) : Byte := BitVec.ofInt 8 (if digitBorrow t then t - 6 else t) &&& 0x0F

/-- The result of `SbcDecimalNmos` (rule R210). -/
def sbcDecimalRes (a m : Byte) (c : Bool) : Byte :=
  let al : Int := ((a &&& 0x0F).toNat : Int) - (m &&& 0x0F).toNat - (1 - bitNat c)
  let ah : Int := ((a >>> 4).toNat : Int) - (m >>> 4).toNat - bitNat (digitBorrow al)
  digitCorrect al ||| (digitCorrect ah <<< 4)

/-- `SbcDecimalNmos` (rule R210): N, V, Z and C from the binary difference. -/
def sbcDecimalNmos (a m : Byte) (c : Bool) : FlagResult := { sbcBinary a m c with res := sbcDecimalRes a m c }

/-- `SbcDecimalCmos` (rule R211): as on NMOS, but N and Z from the corrected result. -/
def sbcDecimalCmos (a m : Byte) (c : Bool) : FlagResult :=
  let r := sbcDecimalNmos a m c
  { r with n := r.res.getLsbD 7, z := r.res == 0 }

/-- The result and flags of SBC (rule R209). -/
def sbcResult (variant : Variant) (d : Bool) (a m : Byte) (c : Bool) : FlagResult :=
  match d, variant with
  | false, _ => sbcBinary a m c
  | true, .nmos => sbcDecimalNmos a m c
  | true, .cmos => sbcDecimalCmos a m c

/-- `Compare(r, m)` (rule R202): N, Z and C, no other flag. -/
def Flags.compare (p : Flags) (r m : Byte) : Flags :=
  { p with c := decide (m.toNat ≤ r.toNat), z := r == m, n := (r - m).getLsbD 7 }

/-- A shift's or rotate's result byte and the carry it leaves. -/
structure ShiftResult where
  res : Byte
  c : Bool
deriving DecidableEq, Repr

/-- ASL (rule R251). -/
def shiftAsl (v : Byte) : ShiftResult := { res := v <<< 1, c := v.getLsbD 7 }

/-- LSR (rule R252). -/
def shiftLsr (v : Byte) : ShiftResult := { res := v >>> 1, c := v.getLsbD 0 }

/-- ROL with the old carry (rule R253). -/
def shiftRol (v : Byte) (c : Bool) : ShiftResult := { res := (v <<< 1) ||| flagBit c 0, c := v.getLsbD 7 }

/-- ROR with the old carry (rule R254). -/
def shiftRor (v : Byte) (c : Bool) : ShiftResult := { res := (v >>> 1) ||| flagBit c 7, c := v.getLsbD 0 }

/-- The flags of a shift or rotate: C, then `SetNZ` of the result (rules R251 to R254). -/
def Flags.setShift (p : Flags) (r : ShiftResult) : Flags := Flags.setNZ { p with c := r.c } r.res

/-- ARR in binary mode (rule R412): A's new value and N, V, Z, C. `b` is the immediate. -/
def arrBinary (a b : Byte) (c : Bool) : FlagResult :=
  let r := ((a &&& b) >>> 1) ||| flagBit c 7
  { res := r, n := r.getLsbD 7, v := r.getLsbD 6 != r.getLsbD 5, z := r == 0, c := r.getLsbD 6 }

/-- ARR in decimal mode (rule R412, decision D19). -/
def arrDecimal (a b : Byte) (c : Bool) : FlagResult :=
  let t := a &&& b
  let r := (t >>> 1) ||| flagBit c 7
  let lowFix := decide ((t &&& 0x0F).toNat + (t &&& 0x01).toNat > 0x05)
  let highFix := decide ((t &&& 0xF0).toNat + (t &&& 0x10).toNat > 0x50)
  let r1 := if lowFix then (r &&& 0xF0) ||| ((r + 0x06) &&& 0x0F) else r
  let r2 := if highFix then r1 + 0x60 else r1
  { res := r2, n := c, v := (t ^^^ r).getLsbD 6, z := r == 0, c := highFix }

/-- ARR (rule R412). -/
def arrResult (d : Bool) (a b : Byte) (c : Bool) : FlagResult :=
  match d with
  | false => arrBinary a b c
  | true => arrDecimal a b c

end Sys2Proof.Machine
end

