-- ==== Sys2Proof/Machine/Ops.lean ====
section
/-! DEFINITION. The named operations over registers, memory, the stack and the host: spec/20_memory.md, the cycle charge and
the breakout hook of spec/40_dispatch_addressing.md, and the one interrupt entry with its return (rules R358, R359 and R504).
An operation that may ask the host threads the state, so that accesses happen in the order of rule R68. -/

namespace Sys2Proof

/-! ### Blocks of the host's memory map -/

/-- The block of an address (rule R52). -/
def Params.block (q : Params) (addr : Word) : Nat := addr.toNat / q.blockSize

/-- `FLAT(b)` for the block of an address (rule R52). -/
def Params.isFlat (q : Params) (addr : Word) : Bool := !q.handlerBlocks.contains (q.block addr)

/-- The host's memory map is a valid one: the block size is a power of two that divides 65536 (its divisors all are, rule
R52), and every handler block lies inside the space and above the zero page and the stack page (rules R57 and R58). -/
def Params.wf (q : Params) : Bool :=
  decide (65536 % q.blockSize = 0) && decide (0 < q.blockSize) &&
    q.handlerBlocks.all fun b => decide (0x200 ≤ b * q.blockSize) && decide (b * q.blockSize < 65536)

end Sys2Proof

namespace Sys2Proof.Machine

/-! ### Registers -/

/-- `A <- v`. -/
def State.setA (s : State) (v : Byte) : State := { s with a := v }

/-- `X <- v`. -/
def State.setX (s : State) (v : Byte) : State := { s with x := v }

/-- `Y <- v`. -/
def State.setY (s : State) (v : Byte) : State := { s with y := v }

/-- `SP <- v`. -/
def State.setSp (s : State) (v : Byte) : State := { s with sp := v }

/-- `pc <- target`. -/
def State.setPc (s : State) (w : Word) : State := { s with pc := w }

/-- Replaces the six flags. -/
def State.setP (s : State) (p : Flags) : State := { s with p := p }

/-- `SetNZ(v)` (rule R26). -/
def State.setNZ (s : State) (v : Byte) : State := s.setP (s.p.setNZ v)

/-- PC past an instruction of `len` bytes, modulo 65536 (rule R103). -/
def State.advance (s : State) (len : Nat) : State := s.setPc (s.pc + BitVec.ofNat 16 len)

/-- `clk <- clk + cycles` (rule R104). -/
def State.charge (s : State) (cycles : Nat) : State := { s with clk := s.clk + cycles }

/-- Sets or clears the halted mark (rule R34). -/
def State.setHalted (s : State) (h : Bool) : State := { s with halted := h }

/-! ### Flat memory -/

/-- The byte at an address: the listed one, or what an unlisted address reads as (rule R55). -/
def Memory.read : Memory → Nat → Byte
  | [], _ => Config.launchByte
  | (k, v) :: rest, a => if k = a then v else Memory.read rest a

/-- The memory without an address's entry. -/
def Memory.erase : Memory → Nat → Memory
  | [], _ => []
  | (k, v) :: rest, a => if k = a then Memory.erase rest a else (k, v) :: Memory.erase rest a

/-- The memory with an address's entry put in its place. -/
def Memory.insert : Memory → Nat → Byte → Memory
  | [], a, v => [(a, v)]
  | (k, w) :: rest, a, v =>
    if a < k then (a, v) :: (k, w) :: rest
    else if a = k then (a, v) :: rest
    else (k, w) :: Memory.insert rest a v

/-- A store: the value an unlisted address reads as removes the entry, any other takes its place in the list. -/
def Memory.write (m : Memory) (a : Nat) (v : Byte) : Memory :=
  if v = Config.launchByte then Memory.erase m a else Memory.insert m a v

/-- Every address of the list lies above a bound, in strictly rising order, below 65536, with no entry equal to what an
unlisted address reads as. -/
def Memory.risesFrom : Memory → Nat → Bool
  | [], _ => true
  | (k, v) :: rest, low => decide (low ≤ k) && decide (k < 65536) && v != Config.launchByte && Memory.risesFrom rest (k + 1)

/-- The canonical form of memory: addresses of the space of rule R50, strictly rising, none listed without need. -/
def Memory.wf (m : Memory) : Bool := Memory.risesFrom m 0

/-- `Flat[addr]` (rule R55). -/
def State.flat (s : State) (addr : Word) : Byte := Memory.read s.mem addr.toNat

/-- A store to a flat block: every write lands (rule R55, decision D7). -/
def State.setFlat (s : State) (addr : Word) (v : Byte) : State := { s with mem := Memory.write s.mem addr.toNat v }

/-! ### The host's handlers -/

/-- Records a call to the host. -/
def State.log (s : State) (call : HostCall) : State := { s with hostLog := call :: s.hostLog }

/-- Counts one free value as drawn. -/
def State.draw (s : State) : State := { s with draws := s.draws + 1 }

/-- The byte the host answers a handler read with: a free value (rule R56, item U6, log entry 5). -/
def State.handlerAnswer (s : State) (addr : Word) : Byte :=
  Config.handlerRead s.draws (s.params.block addr) addr s.clk

/-- `MemRead(addr, 1)` (rule R53). The handler is told the `clk` of the instruction's start, which `clk` still is (rule R562). -/
def memRead (addr : Word) (s : State) : Byte × State :=
  if s.params.isFlat addr then (s.flat addr, s)
  else (s.handlerAnswer addr, (s.log (.read (s.params.block addr) addr s.clk (s.handlerAnswer addr))).draw)

/-- `MemWrite(addr, 1, v)` (rule R54): a handler write is an event and changes no core state (rule R56). -/
def memWrite (addr : Word) (v : Byte) (s : State) : State :=
  if s.params.isFlat addr then s.setFlat addr v else s.log (.write (s.params.block addr) addr s.clk v)

/-- `ZpRead(off)` (rule R57): the zero page is always flat. -/
def zpRead (off : Byte) (s : State) : Byte := s.flat (zext16 off)

/-- `Read16(addr)` (rule R59): low byte first, the second address modulo 65536. -/
def read16 (addr : Word) (s : State) : Word × State :=
  let lo := memRead addr s
  let hi := memRead (addr + 1) lo.2
  (joinBytes hi.1 lo.1, hi.2)

/-- `Read16Zp(off)` (rule R60): the second offset modulo 256. -/
def read16Zp (off : Byte) (s : State) : Word := joinBytes (zpRead (off + 1) s) (zpRead off s)

/-- `Read16PageWrapped(addr)` (rule R61): the high byte comes from the same page. -/
def read16PageWrapped (addr : Word) (s : State) : Word × State :=
  let lo := memRead addr s
  let hi := memRead (joinBytes (hiByte addr) (loByte addr + 1)) lo.2
  (joinBytes hi.1 lo.1, hi.2)

/-! ### The stack -/

/-- The stack byte that a stack pointer addresses: `0x0100 | SP` (rule R21, decision D2). -/
def stackAddr (sp : Byte) : Word := joinBytes 0x01 sp

/-- `Push8(v)` (rule R62): store, then decrement modulo 256. -/
def push8 (v : Byte) (s : State) : State :=
  let t := memWrite (stackAddr s.sp) v s
  t.setSp (t.sp - 1)

/-- `Pop8()` (rule R62): increment modulo 256, then load. -/
def pop8 (s : State) : Byte × State := memRead (stackAddr (s.sp + 1)) (s.setSp (s.sp + 1))

/-- `Push16(w)` (rule R63): the high byte first. -/
def push16 (w : Word) (s : State) : State := push8 (loByte w) (push8 (hiByte w) s)

/-- `Pop16()` (rule R63): the low byte first. -/
def pop16 (s : State) : Word × State :=
  let lo := pop8 s
  let hi := pop8 lo.2
  (joinBytes hi.1 lo.1, hi.2)

/-! ### The breakout hook -/

/-- `Hook()` (rule R106): the host is called with the current `clk`, and `clk` takes its answer, a free value (item U7, log
entry 6). -/
def State.callHook (s : State) : State :=
  { (s.log (.hook s.clk)).draw with clk := Config.breakoutHook s.draws s.clk }

/-! ### Taking an exception and returning from one -/

/-- The BRK and IRQ vector (rules R67 and R500). -/
def irqVector : Word := 0xFFFE

/-- The NMI vector (rules R67 and R500). -/
def nmiVector : Word := 0xFFFA

/-- The reset vector (rules R67 and R550). -/
def resetVector : Word := 0xFFFC

/-- The flags on entry: I is set, and D is cleared on CMOS only (rules R358 and R504, conflict C1). -/
def Flags.enter (p : Flags) (variant : Variant) : Flags :=
  match variant with
  | .nmos => { p with i := true }
  | .cmos => { p with i := true, d := false }

/-- The entry that BRK (rule R358) and the interrupts (rule R504) share: push the return address, push the status image with
the event's break bit, set I and on CMOS clear D, and load PC from the vector. It charges nothing and calls no hook. -/
def takeException (ret : Word) (brk : Bool) (vector : Word) (s : State) : State :=
  let t := push8 (statusImage brk s.p) (push16 ret s)
  let u := t.setP (t.p.enter t.params.variant)
  let target := read16 vector u
  target.2.setPc target.1

/-- The return of rules R359 and R507: pop the status, dropping bits 4 and 5, then pop PC with no adjustment. -/
def returnFromException (s : State) : State :=
  let image := pop8 s
  let target := pop16 (image.2.setP (statusLoad image.1))
  target.2.setPc target.1

end Sys2Proof.Machine
end

