-- ==== Sys2Proof/Machine/Operands.lean ====
section
/-! DEFINITION. The operand forms (rules R110 to R128 of spec/40_dispatch_addressing.md): what each addressing mode resolves
to, how its operand byte is read, what it costs, and the frames that the instructions of one kind share. A frame is a whole
instruction: PC past it (rule R103), the operand, the effect, then the cycle charge in one addition (rules R104 and R562). -/

namespace Sys2Proof.Machine

/-! ### Effective addresses -/

/-- What the resolver produces (rule R100): the effective address and the un-indexed base. -/
structure Ea where
  ea : Word
  base : Word
deriving DecidableEq, Repr

/-- The page-cross predicate (rule R105). -/
def Ea.cross (e : Ea) : Bool := hiByte e.base != hiByte e.ea

/-- An address that nothing indexes: it is its own base, so it never crosses (rule R105). -/
def Ea.plain (w : Word) : Ea := { ea := w, base := w }

/-- A 16-bit base plus an index, modulo 65536 (rules R118, R119 and R122). -/
def Ea.indexed (base : Word) (index : Byte) : Ea := { ea := base + zext16 index, base := base }

end Sys2Proof.Machine

namespace Sys2Proof

open Machine

/-- The effective address of a mode (rules R114 to R122). Pointers come from the zero page, which is flat, so the host is
not asked. -/
def EaMode.resolve (m : EaMode) (s : State) : Ea :=
  match m with
  | .zp b => Ea.plain (zext16 b)
  | .zpX b => Ea.plain (zext16 (b + s.x))
  | .zpY b => Ea.plain (zext16 (b + s.y))
  | .abs w => Ea.plain w
  | .absX w => Ea.indexed w s.x
  | .absY w => Ea.indexed w s.y
  | .ind b => Ea.plain (read16Zp b s)
  | .indX b => Ea.plain (read16Zp (b + s.x) s)
  | .indY b => Ea.indexed (read16Zp b s) s.y

/-- The modes that are read with `ZpRead` (rule R128). -/
def EaMode.isZeroPage (m : EaMode) : Bool :=
  match m with
  | .zp _ => true
  | .zpX _ => true
  | .zpY _ => true
  | .abs _ => false
  | .absX _ => false
  | .absY _ => false
  | .ind _ => false
  | .indX _ => false
  | .indY _ => false

/-- Reads `M` once from an effective address of the mode (rule R128). -/
def EaMode.load (m : EaMode) (ea : Word) (s : State) : Byte × State :=
  if m.isZeroPage then (zpRead (loByte ea) s, s) else memRead ea s

/-- The operand byte `M` of a read-kind instruction (rules R113 and R128). -/
def ReadOp.load (r : ReadOp) (s : State) : Byte × State :=
  match r with
  | .imm b => (b, s)
  | .mem m => m.load (m.resolve s).ea s

/-! ### Cycle costs -/

/-- The base cycles of a read-type instruction by mode (rules R114 to R122). -/
def EaMode.readCycles (m : EaMode) : Nat :=
  match m with
  | .zp _ => 3
  | .zpX _ => 4
  | .zpY _ => 4
  | .abs _ => 4
  | .absX _ => 4
  | .absY _ => 4
  | .ind _ => 5
  | .indX _ => 6
  | .indY _ => 5

/-- The cross cycle that stores and read-modify-write instructions always pay in the indexed modes (rule R127). -/
def EaMode.paidCross (m : EaMode) : Nat :=
  match m with
  | .absX _ => 1
  | .absY _ => 1
  | .indY _ => 1
  | .zp _ => 0
  | .zpX _ => 0
  | .zpY _ => 0
  | .abs _ => 0
  | .ind _ => 0
  | .indX _ => 0

/-- The cost of a store (rule R127): the read base with the cross cycle always paid. -/
def EaMode.storeCycles (m : EaMode) : Nat := m.readCycles + m.paidCross

/-- The cost of a memory read-modify-write (rule R127): a store's and 2 more. -/
def EaMode.rmwCycles (m : EaMode) : Nat := m.storeCycles + 2

/-- The page penalty of a read-type instruction (rules R104 and R105). -/
def EaMode.penalty (m : EaMode) (s : State) : Nat := bitNat (m.resolve s).cross

/-- The base cycles of a read-kind operand: an immediate costs 2 (rule R113). -/
def ReadOp.cycles (r : ReadOp) : Nat :=
  match r with
  | .imm _ => 2
  | .mem m => m.readCycles

/-- The page penalty of a read-kind operand (rule R104). -/
def ReadOp.penalty (r : ReadOp) (s : State) : Nat :=
  match r with
  | .imm _ => 0
  | .mem m => m.penalty s

/-- The cost of a shift or rotate: 2 for the accumulator (rule R112), else a read-modify-write's. -/
def RmwOp.cycles (r : RmwOp) : Nat :=
  match r with
  | .acc => 2
  | .mem m => m.rmwCycles

/-! ### Lengths -/

/-- The length of an instruction with these operand bytes (rule R80). -/
def lengthOf (operands : List Byte) : Nat := 1 + operands.length

end Sys2Proof

namespace Sys2Proof.Machine

/-! ### Frames -/

/-- An implied or accumulator instruction of one byte (rules R111 and R112). -/
def impliedInstr (cycles : Nat) (f : State → State) (s : State) : Out := .next ((f (s.advance 1)).charge cycles)

/-- A read-kind instruction (rule R110): `M` is read once and given to the effect. `extra` is what the instruction's rule
adds to the cost (rule R104). -/
def readInstr (r : ReadOp) (extra : Nat) (f : Byte → State → State) (s : State) : Out :=
  let m := r.load (s.advance (lengthOf r.operands))
  .next ((f m.1 m.2).charge (r.cycles + r.penalty s + extra))

/-- A two-byte immediate instruction: 2 cycles (rule R113). -/
def immInstr (f : State → State) (s : State) : Out := .next ((f (s.advance 2)).charge 2)

/-- A store (rule R110): one write at the effective address and no read of it (rule R73). -/
def storeInstr (m : EaMode) (v : Byte) (s : State) : Out :=
  let t := s.advance (lengthOf m.operands)
  .next ((memWrite (m.resolve t).ea v t).charge (m.storeCycles))

/-- A read-modify-write of memory (rule R250): one read, the flags, one write to the same address; `f` gives the new byte
and the flags from the byte read, and `after` is what a combined operation does with the new byte (rule R400). -/
def rmwMem (m : EaMode) (f : Byte → State → Byte × Flags) (after : Byte → State → State) (s : State) : Out :=
  let t := s.advance (lengthOf m.operands)
  let ea := (m.resolve t).ea
  let v := m.load ea t
  let r := f v.1 v.2
  .next ((after r.1 (memWrite ea r.1 (v.2.setP r.2))).charge (m.rmwCycles))

/-- A read-modify-write with nothing after it. -/
def noAfter (_ : Byte) (s : State) : State := s

/-- A shift or rotate of A or of memory (rule R250). -/
def rmwInstr (r : RmwOp) (f : Byte → State → Byte × Flags) (s : State) : Out :=
  match r with
  | .acc => impliedInstr 2 (fun t => (t.setP (f t.a t).2).setA (f t.a t).1) s
  | .mem m => rmwMem m f noAfter s

/-- The target of a relative operand (rule R123): `pc0 + 2 + sext_8(b1)`, modulo 65536. -/
def branchTarget (b : Byte) (s : State) : Word := s.pc + 2 + sext16 b

/-- The cycles a branch adds (rule R300): 1 when taken, 1 more when the target's page is not that of `pc0 + 2`. -/
def branchExtra (cond : Bool) (b : Byte) (s : State) : Nat :=
  if cond then (if hiByte (branchTarget b s) == hiByte (s.pc + 2) then 1 else 2) else 0

/-- `Branch(cond)` (rule R300). -/
def branchInstr (cond : Bool) (b : Byte) (s : State) : Out :=
  .next ((s.setPc (if cond then branchTarget b s else s.pc + 2)).charge (2 + branchExtra cond b s))

/-- An instruction that only fetches its bytes and charges cycles (rule R74). -/
def idleInstr (len cycles : Nat) (s : State) : Out := .next ((s.advance len).charge cycles)

end Sys2Proof.Machine
end

