-- ==== Sys2Proof/Machine/Alu.lean ====
section
/-! DEFINITION. The meanings of spec/42_alu.md: logic, arithmetic, compare and bit test. -/

namespace Sys2Proof.Machine

/-- ORA (rule R203). -/
def execOra (r : ReadOp) (s : State) : Out := readInstr r 0 (fun m t => (t.setA (t.a ||| m)).setNZ (t.a ||| m)) s

/-- AND (rule R204). -/
def execAnd (r : ReadOp) (s : State) : Out := readInstr r 0 (fun m t => (t.setA (t.a &&& m)).setNZ (t.a &&& m)) s

/-- EOR (rule R205). -/
def execEor (r : ReadOp) (s : State) : Out := readInstr r 0 (fun m t => (t.setA (t.a ^^^ m)).setNZ (t.a ^^^ m)) s

/-- The cycle that CMOS adds to ADC and SBC in decimal mode (rules R206 and R209). -/
def decimalExtra (s : State) : Nat :=
  match s.params.variant with
  | .nmos => 0
  | .cmos => bitNat s.p.d

/-- Writes A and N, V, Z, C of an arithmetic result. -/
def State.setArith (s : State) (r : FlagResult) : State := (s.setA r.res).setP (s.p.setArith r)

/-- ADC's effect on A and the flags with a memory byte (rule R206). -/
def adcEffect (m : Byte) (s : State) : State := s.setArith (adcResult s.params.variant s.p.d s.a m s.p.c)

/-- SBC's effect on A and the flags with a memory byte (rule R209). -/
def sbcEffect (m : Byte) (s : State) : State := s.setArith (sbcResult s.params.variant s.p.d s.a m s.p.c)

/-- ADC (rule R206). -/
def execAdc (r : ReadOp) (s : State) : Out := readInstr r (decimalExtra s) adcEffect s

/-- SBC (rule R209). -/
def execSbc (r : ReadOp) (s : State) : Out := readInstr r (decimalExtra s) sbcEffect s

/-- SBC #, the NMOS byte EB, identical to E9 (rule R209, decision D20). -/
def execSbcEb (b : Byte) (s : State) : Out := readInstr (.imm b) (decimalExtra s) sbcEffect s

/-- CMP (rule R212). -/
def execCmp (r : ReadOp) (s : State) : Out := readInstr r 0 (fun m t => t.setP (t.p.compare t.a m)) s

/-- CPX (rule R213). -/
def execCpx (r : ReadOp) (s : State) : Out := readInstr r 0 (fun m t => t.setP (t.p.compare t.x m)) s

/-- CPY (rule R214). -/
def execCpy (r : ReadOp) (s : State) : Out := readInstr r 0 (fun m t => t.setP (t.p.compare t.y m)) s

/-- The flags of BIT on memory (rule R215): N and V from the byte, Z from its AND with A. -/
def Flags.bitTest (p : Flags) (a m : Byte) : Flags := { p with z := a &&& m == 0, n := m.getLsbD 7, v := m.getLsbD 6 }

/-- The flags of BIT #, TSB and TRB (rules R216, R263 and R264): Z alone. -/
def Flags.testZ (p : Flags) (a m : Byte) : Flags := { p with z := a &&& m == 0 }

/-- BIT, the memory forms (rule R215). -/
def execBit (m : EaMode) (s : State) : Out := readInstr (.mem m) 0 (fun v t => t.setP (t.p.bitTest t.a v)) s

/-- BIT # (rule R216). -/
def execBitImm (b : Byte) (s : State) : Out := readInstr (.imm b) 0 (fun v t => t.setP (t.p.testZ t.a v)) s

end Sys2Proof.Machine
end

