-- ==== Sys2Proof/Machine/CmosUnused.lean ====
section
/-! DEFINITION. The meaning of spec/47_cmos_unused.md: the CMOS unused ("bad") opcodes. -/

namespace Sys2Proof.Machine

/-- The cycles of a CMOS bad opcode by class (rules R461 to R466): 44 and 5C are the special cases of their nibbles. -/
def badCycles (op : Byte) (f : BadForm) : Nat :=
  match f with
  | .one => 1
  | .two _ => if op &&& 0x0F == 0x02 then 2 else if op == 0x44 then 3 else 4
  | .three _ => if op == 0x5C then 7 else 4

/-- A CMOS bad opcode (rule R460): it fetches its bytes, charges a fixed cost and does nothing else. -/
def execNopBad (op : Byte) (f : BadForm) (s : State) : Out := idleInstr (lengthOf f.operands) (badCycles op f) s

end Sys2Proof.Machine
end

