-- ==== Sys2Proof/Machine/Control.lean ====
section
/-! DEFINITION. The meanings of spec/44_control.md: branches, jumps, subroutine call and return. -/

namespace Sys2Proof.Machine

/-- BPL (rule R301). -/
def execBpl (b : Byte) (s : State) : Out := branchInstr (!s.p.n) b s

/-- BMI (rule R302). -/
def execBmi (b : Byte) (s : State) : Out := branchInstr s.p.n b s

/-- BVC (rule R303). -/
def execBvc (b : Byte) (s : State) : Out := branchInstr (!s.p.v) b s

/-- BVS (rule R304). -/
def execBvs (b : Byte) (s : State) : Out := branchInstr s.p.v b s

/-- BCC (rule R305). -/
def execBcc (b : Byte) (s : State) : Out := branchInstr (!s.p.c) b s

/-- BCS (rule R306). -/
def execBcs (b : Byte) (s : State) : Out := branchInstr s.p.c b s

/-- BNE (rule R307). -/
def execBne (b : Byte) (s : State) : Out := branchInstr (!s.p.z) b s

/-- BEQ (rule R308). -/
def execBeq (b : Byte) (s : State) : Out := branchInstr s.p.z b s

/-- BRA (rule R309): always taken. -/
def execBra (b : Byte) (s : State) : Out := branchInstr true b s

/-- The target of JMP and the state after its pointer reads (rule R310). -/
def jumpTarget (m : JmpMode) (s : State) : Word × State :=
  match m with
  | .abs w => (w, s)
  | .ind w =>
    match s.params.variant with
    | .nmos => read16PageWrapped w s
    | .cmos => read16 w s
  | .indX w => read16 (w + zext16 s.x) s

/-- The cycles of JMP (rule R310): 3, or 5 indirect on NMOS, or 6 in the CMOS indirect forms. -/
def jumpCycles (m : JmpMode) (variant : Variant) : Nat :=
  match m, variant with
  | .abs _, _ => 3
  | .ind _, .nmos => 5
  | .ind _, .cmos => 6
  | .indX _, _ => 6

/-- JMP (rule R310). -/
def execJmp (m : JmpMode) (s : State) : Out :=
  let t := jumpTarget m (s.advance (lengthOf m.operands))
  .next ((t.2.setPc t.1).charge (jumpCycles m s.params.variant))

/-- JSR (rule R311): pushes `pc0 + 2`, the address of its own last byte. -/
def execJsr (w : Word) (s : State) : Out := .next (((push16 (s.pc + 2) (s.advance 3)).setPc w).charge 6)

/-- RTS (rule R312, conflict C2): the popped address plus one, modulo 65536. -/
def execRts (s : State) : Out := impliedInstr 6 (fun t => (pop16 t).2.setPc ((pop16 t).1 + 1)) s

end Sys2Proof.Machine
end

