-- ==== Sys2Proof/Machine/LoadStore.lean ====
section
/-! DEFINITION. The meanings of spec/41_load_store_transfer.md: loads, stores and register transfers. -/

namespace Sys2Proof.Machine

/-- LDA (rule R150). -/
def execLda (r : ReadOp) (s : State) : Out := readInstr r 0 (fun m t => (t.setA m).setNZ m) s

/-- LDX (rule R151). -/
def execLdx (r : ReadOp) (s : State) : Out := readInstr r 0 (fun m t => (t.setX m).setNZ m) s

/-- LDY (rule R152). -/
def execLdy (r : ReadOp) (s : State) : Out := readInstr r 0 (fun m t => (t.setY m).setNZ m) s

/-- STA (rule R153). -/
def execSta (m : EaMode) (s : State) : Out := storeInstr m s.a s

/-- STX (rule R154). -/
def execStx (m : EaMode) (s : State) : Out := storeInstr m s.x s

/-- STY (rule R155). -/
def execSty (m : EaMode) (s : State) : Out := storeInstr m s.y s

/-- STZ (rule R156). -/
def execStz (m : EaMode) (s : State) : Out := storeInstr m 0x00 s

/-- TAX (rule R157). -/
def execTax (s : State) : Out := impliedInstr 2 (fun t => (t.setX t.a).setNZ t.a) s

/-- TAY (rule R158). -/
def execTay (s : State) : Out := impliedInstr 2 (fun t => (t.setY t.a).setNZ t.a) s

/-- TXA (rule R159). -/
def execTxa (s : State) : Out := impliedInstr 2 (fun t => (t.setA t.x).setNZ t.x) s

/-- TYA (rule R160). -/
def execTya (s : State) : Out := impliedInstr 2 (fun t => (t.setA t.y).setNZ t.y) s

/-- TSX (rule R161). -/
def execTsx (s : State) : Out := impliedInstr 2 (fun t => (t.setX t.sp).setNZ t.sp) s

/-- TXS (rule R162): the one transfer that writes no flag. -/
def execTxs (s : State) : Out := impliedInstr 2 (fun t => t.setSp t.x) s

end Sys2Proof.Machine
end

