-- ==== Sys2Proof/Machine/Rmw.lean ====
section
/-! DEFINITION. The meanings of spec/43_rmw.md: shifts, rotates, increments, decrements, and test and set or reset. -/

namespace Sys2Proof.Machine

/-- A shift's or rotate's byte and flags, for the read-modify-write frame. -/
def shiftStep (r : ShiftResult) (s : State) : Byte × Flags := (r.res, s.p.setShift r)

/-- ASL's step in the frame (rule R251). -/
def aslStep (v : Byte) (s : State) : Byte × Flags := shiftStep (shiftAsl v) s

/-- LSR's step in the frame (rule R252). -/
def lsrStep (v : Byte) (s : State) : Byte × Flags := shiftStep (shiftLsr v) s

/-- ROL's step in the frame (rule R253): the old carry is read before the new one is written. -/
def rolStep (v : Byte) (s : State) : Byte × Flags := shiftStep (shiftRol v s.p.c) s

/-- ROR's step in the frame (rule R254). -/
def rorStep (v : Byte) (s : State) : Byte × Flags := shiftStep (shiftRor v s.p.c) s

/-- INC's step in the frame (rule R255). -/
def incStep (v : Byte) (s : State) : Byte × Flags := (v + 1, s.p.setNZ (v + 1))

/-- DEC's step in the frame (rule R256). -/
def decStep (v : Byte) (s : State) : Byte × Flags := (v - 1, s.p.setNZ (v - 1))

/-- TSB's step in the frame (rule R263): Z from the old byte. -/
def tsbStep (v : Byte) (s : State) : Byte × Flags := (v ||| s.a, s.p.testZ s.a v)

/-- TRB's step in the frame (rule R264). -/
def trbStep (v : Byte) (s : State) : Byte × Flags := (v &&& ~~~s.a, s.p.testZ s.a v)

/-- ASL (rule R251). -/
def execAsl (r : RmwOp) (s : State) : Out := rmwInstr r aslStep s

/-- LSR (rule R252). -/
def execLsr (r : RmwOp) (s : State) : Out := rmwInstr r lsrStep s

/-- ROL (rule R253). -/
def execRol (r : RmwOp) (s : State) : Out := rmwInstr r rolStep s

/-- ROR (rule R254). -/
def execRor (r : RmwOp) (s : State) : Out := rmwInstr r rorStep s

/-- INC (rule R255). -/
def execInc (m : EaMode) (s : State) : Out := rmwMem m incStep noAfter s

/-- DEC (rule R256). -/
def execDec (m : EaMode) (s : State) : Out := rmwMem m decStep noAfter s

/-- INX (rule R257). -/
def execInx (s : State) : Out := impliedInstr 2 (fun t => (t.setX (t.x + 1)).setNZ (t.x + 1)) s

/-- INY (rule R258). -/
def execIny (s : State) : Out := impliedInstr 2 (fun t => (t.setY (t.y + 1)).setNZ (t.y + 1)) s

/-- DEX (rule R259). -/
def execDex (s : State) : Out := impliedInstr 2 (fun t => (t.setX (t.x - 1)).setNZ (t.x - 1)) s

/-- DEY (rule R260). -/
def execDey (s : State) : Out := impliedInstr 2 (fun t => (t.setY (t.y - 1)).setNZ (t.y - 1)) s

/-- INA (rule R261). -/
def execIna (s : State) : Out := impliedInstr 2 (fun t => (t.setA (t.a + 1)).setNZ (t.a + 1)) s

/-- DEA (rule R262). -/
def execDea (s : State) : Out := impliedInstr 2 (fun t => (t.setA (t.a - 1)).setNZ (t.a - 1)) s

/-- TSB (rule R263). -/
def execTsb (m : EaMode) (s : State) : Out := rmwMem m tsbStep noAfter s

/-- TRB (rule R264). -/
def execTrb (m : EaMode) (s : State) : Out := rmwMem m trbStep noAfter s

end Sys2Proof.Machine
end

