-- ==== Sys2Proof/Machine/NmosUndoc.lean ====
section
/-! DEFINITION. The meanings of spec/46_nmos_undocumented.md: the NMOS undocumented opcodes. -/

namespace Sys2Proof.Machine

/-! ### Combined read-modify-write operations (rule R400) -/

/-- SLO = ASL + ORA (rule R401). -/
def execSlo (m : EaMode) (s : State) : Out := rmwMem m aslStep (fun r t => (t.setA (t.a ||| r)).setNZ (t.a ||| r)) s

/-- RLA = ROL + AND (rule R402). -/
def execRla (m : EaMode) (s : State) : Out := rmwMem m rolStep (fun r t => (t.setA (t.a &&& r)).setNZ (t.a &&& r)) s

/-- SRE = LSR + EOR (rule R403). -/
def execSre (m : EaMode) (s : State) : Out := rmwMem m lsrStep (fun r t => (t.setA (t.a ^^^ r)).setNZ (t.a ^^^ r)) s

/-- RRA = ROR + ADC (rule R404): the ADC adds the bit that the rotate shifted out, and no decimal cycle is charged. -/
def execRra (m : EaMode) (s : State) : Out := rmwMem m rorStep adcEffect s

/-- DCP = DEC + CMP (rule R405). -/
def execDcp (m : EaMode) (s : State) : Out := rmwMem m decStep (fun r t => t.setP (t.p.compare t.a r)) s

/-- ISB = INC + SBC (rule R406). -/
def execIsb (m : EaMode) (s : State) : Out := rmwMem m incStep sbcEffect s

/-! ### Combined loads and stores -/

/-- SAX (rule R407). -/
def execSax (m : EaMode) (s : State) : Out := storeInstr m (s.a &&& s.x) s

/-- LAX (rule R408). -/
def execLax (m : EaMode) (s : State) : Out := readInstr (.mem m) 0 (fun v t => ((t.setA v).setX v).setNZ v) s

/-- The value LXA forms (rule R409, decision D17). -/
def lxaValue (b : Byte) (s : State) : Byte := (s.a ||| s.params.lxaMagic) &&& b

/-- LXA (rule R409). -/
def execLxa (b : Byte) (s : State) : Out :=
  immInstr (fun t => ((t.setA (lxaValue b t)).setX (lxaValue b t)).setNZ (lxaValue b t)) s

/-! ### Immediate combined operations -/

/-- ANC's effect (rule R410): C takes bit 7 of the result. -/
def ancEffect (b : Byte) (s : State) : State :=
  (s.setA (s.a &&& b)).setP { s.p.setNZ (s.a &&& b) with c := (s.a &&& b).getLsbD 7 }

/-- ANC, byte 0B (rule R410). -/
def execAnc (b : Byte) (s : State) : Out := immInstr (ancEffect b) s

/-- ANC, byte 2B (rule R410). -/
def execAnc2b (b : Byte) (s : State) : Out := immInstr (ancEffect b) s

/-- ALR (rule R411). -/
def execAlr (b : Byte) (s : State) : Out :=
  immInstr (fun t => (t.setA (shiftLsr (t.a &&& b)).res).setP (t.p.setShift (shiftLsr (t.a &&& b)))) s

/-- ARR (rule R412). -/
def execArr (b : Byte) (s : State) : Out := immInstr (fun t => t.setArith (arrResult t.p.d t.a b t.p.c)) s

/-- The value XAA forms (rule R413, decision D17). -/
def xaaValue (b : Byte) (s : State) : Byte := (s.a ||| s.params.xaaMagic) &&& s.x &&& b

/-- XAA (rule R413). DEDUCED (log entry 16): X is left, although rule R20 lists XAA among its writers. -/
def execXaa (b : Byte) (s : State) : Out := immInstr (fun t => (t.setA (xaaValue b t)).setNZ (xaaValue b t)) s

/-- AXS (rule R414): the flags are a compare's, and no carry comes in. -/
def execAxs (b : Byte) (s : State) : Out :=
  immInstr (fun t => (t.setX ((t.a &&& t.x) - b)).setP (t.p.compare (t.a &&& t.x) b)) s

/-! ### Stack-pointer and high-byte operations -/

/-- LAS's effect (rule R415). -/
def lasEffect (m : Byte) (s : State) : State :=
  (((s.setA (m &&& s.sp)).setX (m &&& s.sp)).setSp (m &&& s.sp)).setNZ (m &&& s.sp)

/-- LAS abs,Y (rule R415). -/
def execLas (w : Word) (s : State) : Out := readInstr (.mem (.absY w)) 0 lasEffect s

/-- `H1` of rule R416: the high byte of the un-indexed base address, plus one modulo 256. -/
def highPlusOne (e : Ea) : Byte := hiByte e.base + 1

/-- The address `SHStore` writes (rule R416): on a page cross, where the parameter says so, its high byte is the value. -/
def shAddr (q : Params) (e : Ea) (v : Byte) : Word :=
  if e.cross && q.shPageCrossCorrupts then joinBytes v (loByte e.ea) else e.ea

/-- A store through `SHStore` (rule R416): `value` gives what is stored from `H1`. -/
def shStoreInstr (m : EaMode) (value : Byte → State → Byte) (s : State) : Out :=
  let t := s.advance (lengthOf m.operands)
  let e := m.resolve t
  let v := value (highPlusOne e) t
  .next ((memWrite (shAddr t.params e v) v t).charge m.storeCycles)

/-- AHX (rule R417). -/
def execAhx (m : EaMode) (s : State) : Out := shStoreInstr m (fun h t => t.a &&& t.x &&& h) s

/-- TAS abs,Y (rule R418): SP is written, then stored with `H1`. -/
def execTas (w : Word) (s : State) : Out := shStoreInstr (.absY w) (fun h t => t.sp &&& h) (s.setSp (s.a &&& s.x))

/-- SHY abs,X (rule R419). -/
def execShy (w : Word) (s : State) : Out := shStoreInstr (.absX w) (fun h t => t.y &&& h) s

/-- SHX abs,Y (rule R420). -/
def execShx (w : Word) (s : State) : Out := shStoreInstr (.absY w) (fun h t => t.x &&& h) s

/-! ### Undocumented NOPs and JAM -/

/-- The base cycles of an undocumented NOP (rule R421). -/
def nopCycles (f : NopForm) : Nat :=
  match f with
  | .implied => 2
  | .imm _ => 2
  | .zp _ => 3
  | .zpX _ => 4
  | .abs _ => 4
  | .absX _ => 4

/-- The page-cross cycle of an undocumented NOP (rule R421): the abs,X form charges it though it does not read. -/
def nopPenalty (f : NopForm) (s : State) : Nat :=
  match f with
  | .absX w => bitNat (Ea.indexed w s.x).cross
  | .implied => 0
  | .imm _ => 0
  | .zp _ => 0
  | .zpX _ => 0
  | .abs _ => 0

/-- An undocumented NOP (rule R421). Its cost depends on the form alone, not on the byte. -/
def execNopUndoc (_op : Byte) (f : NopForm) (s : State) : Out :=
  idleInstr (lengthOf f.operands) (nopCycles f + nopPenalty f s) s

/-- JAM (rule R422): with `NMOS_JAM_HALTS` the machine halts at the JAM byte, else it is a no-op of 2 bytes; 2 cycles either
way. -/
def execJam (_op _b : Byte) (s : State) : Out :=
  if s.params.nmosJamHalts then .next ((s.setHalted true).charge 2) else idleInstr 2 2 s

end Sys2Proof.Machine
end

