-- ==== Sys2Proof/Machine/StackFlags.lean ====
section
/-! DEFINITION. The meanings of spec/45_stack_flags_system.md: stack, status-flag and system instructions. -/

namespace Sys2Proof.Machine

/-- PHA (rule R350). -/
def execPha (s : State) : Out := impliedInstr 3 (fun t => push8 t.a t) s

/-- PHP (rule R351): bits 4 and 5 of the pushed byte are 1. -/
def execPhp (s : State) : Out := impliedInstr 3 (fun t => push8 (statusImage true t.p) t) s

/-- PLA (rule R352). -/
def execPla (s : State) : Out := impliedInstr 4 (fun t => ((pop8 t).2.setA (pop8 t).1).setNZ (pop8 t).1) s

/-- A meaning whose hook is called once its own cycles are charged (rule R106, decision D14). -/
def thenHook (o : Out) : Out :=
  match o with
  | .next t => .next t.callHook
  | .fault r => .fault r
  | .refused r => .refused r

/-- PLP (rule R353). -/
def execPlp (s : State) : Out := thenHook (impliedInstr 4 (fun t => (pop8 t).2.setP (statusLoad (pop8 t).1)) s)

/-- PHX (rule R354). -/
def execPhx (s : State) : Out := impliedInstr 3 (fun t => push8 t.x t) s

/-- PHY (rule R355). -/
def execPhy (s : State) : Out := impliedInstr 3 (fun t => push8 t.y t) s

/-- PLX (rule R356). -/
def execPlx (s : State) : Out := impliedInstr 4 (fun t => ((pop8 t).2.setX (pop8 t).1).setNZ (pop8 t).1) s

/-- PLY (rule R357). -/
def execPly (s : State) : Out := impliedInstr 4 (fun t => ((pop8 t).2.setY (pop8 t).1).setNZ (pop8 t).1) s

/-- BRK (rule R358): the software interrupt; it pushes `pc0 + 2`, with the break bit 1. -/
def execBrk (s : State) : Out := impliedInstr 7 (takeException (s.pc + 2) true irqVector) s

/-- RTI (rule R359). -/
def execRti (s : State) : Out := thenHook (impliedInstr 6 returnFromException s)

/-- CLC (rule R360). -/
def execClc (s : State) : Out := impliedInstr 2 (fun t => t.setP { t.p with c := false }) s

/-- SEC (rule R361). -/
def execSec (s : State) : Out := impliedInstr 2 (fun t => t.setP { t.p with c := true }) s

/-- CLI (rule R362): the hook is called even when I was 0. -/
def execCli (s : State) : Out := thenHook (impliedInstr 2 (fun t => t.setP { t.p with i := false }) s)

/-- SEI (rule R363). -/
def execSei (s : State) : Out := impliedInstr 2 (fun t => t.setP { t.p with i := true }) s

/-- CLV (rule R364). -/
def execClv (s : State) : Out := impliedInstr 2 (fun t => t.setP { t.p with v := false }) s

/-- CLD (rule R365). -/
def execCld (s : State) : Out := impliedInstr 2 (fun t => t.setP { t.p with d := false }) s

/-- SED (rule R366). -/
def execSed (s : State) : Out := impliedInstr 2 (fun t => t.setP { t.p with d := true }) s

/-- NOP, byte EA (rule R367). -/
def execNop (s : State) : Out := idleInstr 1 2 s

end Sys2Proof.Machine
end

