-- ==== Sys2Proof/Machine/Dispatch.lean ====
section
/-! DEFINITION. The dispatch of rule R102: one arm per constructor of Instr, each a direct call of its meaning. -/

namespace Sys2Proof.Machine

def exec (i : Instr) (s : State) : Host.Outcome State Fault Refusal :=
  match i with
  | .lda r => Sys2Proof.Machine.execLda r s
  | .ldx r => Sys2Proof.Machine.execLdx r s
  | .ldy r => Sys2Proof.Machine.execLdy r s
  | .sta m => Sys2Proof.Machine.execSta m s
  | .stx m => Sys2Proof.Machine.execStx m s
  | .sty m => Sys2Proof.Machine.execSty m s
  | .stz m => Sys2Proof.Machine.execStz m s
  | .tax => Sys2Proof.Machine.execTax s
  | .tay => Sys2Proof.Machine.execTay s
  | .txa => Sys2Proof.Machine.execTxa s
  | .tya => Sys2Proof.Machine.execTya s
  | .tsx => Sys2Proof.Machine.execTsx s
  | .txs => Sys2Proof.Machine.execTxs s
  | .ora r => Sys2Proof.Machine.execOra r s
  | .and r => Sys2Proof.Machine.execAnd r s
  | .eor r => Sys2Proof.Machine.execEor r s
  | .adc r => Sys2Proof.Machine.execAdc r s
  | .sbc r => Sys2Proof.Machine.execSbc r s
  | .sbcEb b => Sys2Proof.Machine.execSbcEb b s
  | .cmp r => Sys2Proof.Machine.execCmp r s
  | .cpx r => Sys2Proof.Machine.execCpx r s
  | .cpy r => Sys2Proof.Machine.execCpy r s
  | .bit m => Sys2Proof.Machine.execBit m s
  | .bitImm b => Sys2Proof.Machine.execBitImm b s
  | .asl r => Sys2Proof.Machine.execAsl r s
  | .lsr r => Sys2Proof.Machine.execLsr r s
  | .rol r => Sys2Proof.Machine.execRol r s
  | .ror r => Sys2Proof.Machine.execRor r s
  | .inc m => Sys2Proof.Machine.execInc m s
  | .dec m => Sys2Proof.Machine.execDec m s
  | .inx => Sys2Proof.Machine.execInx s
  | .iny => Sys2Proof.Machine.execIny s
  | .dex => Sys2Proof.Machine.execDex s
  | .dey => Sys2Proof.Machine.execDey s
  | .ina => Sys2Proof.Machine.execIna s
  | .dea => Sys2Proof.Machine.execDea s
  | .tsb m => Sys2Proof.Machine.execTsb m s
  | .trb m => Sys2Proof.Machine.execTrb m s
  | .bpl b => Sys2Proof.Machine.execBpl b s
  | .bmi b => Sys2Proof.Machine.execBmi b s
  | .bvc b => Sys2Proof.Machine.execBvc b s
  | .bvs b => Sys2Proof.Machine.execBvs b s
  | .bcc b => Sys2Proof.Machine.execBcc b s
  | .bcs b => Sys2Proof.Machine.execBcs b s
  | .bne b => Sys2Proof.Machine.execBne b s
  | .beq b => Sys2Proof.Machine.execBeq b s
  | .bra b => Sys2Proof.Machine.execBra b s
  | .jmp m => Sys2Proof.Machine.execJmp m s
  | .jsr w => Sys2Proof.Machine.execJsr w s
  | .rts => Sys2Proof.Machine.execRts s
  | .pha => Sys2Proof.Machine.execPha s
  | .php => Sys2Proof.Machine.execPhp s
  | .pla => Sys2Proof.Machine.execPla s
  | .plp => Sys2Proof.Machine.execPlp s
  | .phx => Sys2Proof.Machine.execPhx s
  | .phy => Sys2Proof.Machine.execPhy s
  | .plx => Sys2Proof.Machine.execPlx s
  | .ply => Sys2Proof.Machine.execPly s
  | .brk => Sys2Proof.Machine.execBrk s
  | .rti => Sys2Proof.Machine.execRti s
  | .clc => Sys2Proof.Machine.execClc s
  | .sec => Sys2Proof.Machine.execSec s
  | .cli => Sys2Proof.Machine.execCli s
  | .sei => Sys2Proof.Machine.execSei s
  | .clv => Sys2Proof.Machine.execClv s
  | .cld => Sys2Proof.Machine.execCld s
  | .sed => Sys2Proof.Machine.execSed s
  | .nop => Sys2Proof.Machine.execNop s
  | .slo m => Sys2Proof.Machine.execSlo m s
  | .rla m => Sys2Proof.Machine.execRla m s
  | .sre m => Sys2Proof.Machine.execSre m s
  | .rra m => Sys2Proof.Machine.execRra m s
  | .dcp m => Sys2Proof.Machine.execDcp m s
  | .isb m => Sys2Proof.Machine.execIsb m s
  | .sax m => Sys2Proof.Machine.execSax m s
  | .lax m => Sys2Proof.Machine.execLax m s
  | .lxa b => Sys2Proof.Machine.execLxa b s
  | .anc b => Sys2Proof.Machine.execAnc b s
  | .anc2b b => Sys2Proof.Machine.execAnc2b b s
  | .alr b => Sys2Proof.Machine.execAlr b s
  | .arr b => Sys2Proof.Machine.execArr b s
  | .xaa b => Sys2Proof.Machine.execXaa b s
  | .axs b => Sys2Proof.Machine.execAxs b s
  | .las w => Sys2Proof.Machine.execLas w s
  | .ahx m => Sys2Proof.Machine.execAhx m s
  | .tas w => Sys2Proof.Machine.execTas w s
  | .shy w => Sys2Proof.Machine.execShy w s
  | .shx w => Sys2Proof.Machine.execShx w s
  | .nopUndoc op f => Sys2Proof.Machine.execNopUndoc op f s
  | .jam op b => Sys2Proof.Machine.execJam op b s
  | .nopBad op f => Sys2Proof.Machine.execNopBad op f s

end Sys2Proof.Machine
end

