-- ==== Sys2Proof/Machine/Fetch.lean ====
section
/-! DEFINITION. The fetch of rules R100 and R101: opcode and operand bytes through `MemRead`, in address order, then the
dispatch of rule R102; and how an instruction of the opcode table is placed where the fetch finds it. -/

namespace Sys2Proof.Machine

/-- The operand bytes an opcode byte asks for (rule R80), read from PC + 1 on, a byte not asked for being given as 0. -/
def fetchOperands (len : Nat) (s : State) : (Byte × Byte) × State :=
  match len with
  | 0 => ((0, 0), s)
  | 1 => ((0, 0), s)
  | 2 =>
    let b1 := memRead (s.pc + 1) s
    ((b1.1, 0), b1.2)
  | _ =>
    let b1 := memRead (s.pc + 1) s
    let b2 := memRead (s.pc + 2) b1.2
    ((b1.1, b2.1), b2.2)

/-- The instruction at PC and the state after its bytes are read (rules R100 to R102); PC is still `pc0`, and the meaning
moves it. A halted machine takes no step (rule R34). -/
def fetch (s : State) : Except Fault (Instr × State) :=
  if s.halted then .error .halted
  else
    let op := memRead s.pc s
    let bs := fetchOperands (opLength s.params.variant op.1) op.2
    .ok (decodeOp s.params.variant op.1 bs.1.1 bs.1.2, bs.2)

/-- The parameters under which an opcode-table word at PC is fetched: the variant whose table it is read in (log entry 9),
and no handler block at PC, PC + 1 or PC + 2, so that the bytes placed there are the bytes fetched. -/
def placeParams (s : State) (op : Byte) : Params :=
  { s.params with
    variant := tableVariant op
    handlerBlocks := s.params.handlerBlocks.filter fun b =>
      b != s.params.block s.pc && b != s.params.block (s.pc + 1) && b != s.params.block (s.pc + 2) }

/-- The state with an opcode-table word's three bytes stored at PC, PC + 1 and PC + 2, and the halted mark clear. -/
def placeWord (s : State) (nbits w : Nat) : State :=
  let t := { s with params := placeParams s (tableByte nbits w 0), halted := false }
  ((t.setFlat s.pc (tableByte nbits w 0)).setFlat (s.pc + 1) (tableByte nbits w 1)).setFlat (s.pc + 2) (tableByte nbits w 2)

end Sys2Proof.Machine
end

