-- ==== Sys2Proof/Machine/Step.lean ====
section
/-! DEFINITION. The one transition of the core, `step()` (rule R100). -/

namespace Sys2Proof.Machine

/-- `step()` (rule R100): fetch, then the instruction's whole meaning. -/
def step (s : State) : Host.Outcome State Fault Refusal :=
  match fetch s with
  | .error r => .fault r
  | .ok (i, t) => exec i t

/-- The state with an opcode-table word stored where `step` fetches its next instruction (log entry 9). -/
def State.withFetchWord (s : State) (nbits w : Nat) : State := placeWord s nbits w

end Sys2Proof.Machine
end

