-- ==== Sys2Proof/Machine/HostEvents.lean ====
section
/-! DEFINITION. What the host may do to the core between two steps: interrupt entry (rules R502 to R506), reset (rule R550)
and the register accessors (rule R516). The core does none of these by itself (rule R509), so `step` never calls one. -/

namespace Sys2Proof.Machine

/-- `Enter(vector)` (rule R504) of a core that is not halted: the shared entry with the break bit 0 and PC itself as the
return address, then 7 cycles. -/
def interruptEntry (vector : Word) (s : State) : State := (takeException s.pc false vector s).charge 7

/-- `Enter(vector)` (rules R504 and R510): it does not apply to a halted core. -/
def enter (vector : Word) (s : State) : Out := if s.halted then .fault .halted else .next (interruptEntry vector s)

/-- The IRQ entry (rule R502): the host may apply it only when I = 0. -/
def hostIrq (s : State) : Out := if s.p.i then .refused .irqMasked else enter irqVector s

/-- The NMI entry (rule R503): whatever I is. -/
def hostNmi (s : State) : Out := enter nmiVector s

/-- The registers after `Reset()` (rule R551): A, X, Y, SP, N, V, Z, C, and D on NMOS, are fresh draws. -/
def resetRegisters (s : State) : State :=
  { s with
    a := Config.resetByte s.draws
    x := Config.resetByte (s.draws + 1)
    y := Config.resetByte (s.draws + 2)
    sp := Config.resetByte (s.draws + 3)
    p :=
      { n := Config.resetFlag (s.draws + 4)
        v := Config.resetFlag (s.draws + 5)
        d := match s.params.variant with
          | .nmos => Config.resetFlag (s.draws + 6)
          | .cmos => false
        i := true
        z := Config.resetFlag (s.draws + 7)
        c := Config.resetFlag (s.draws + 8) }
    halted := false
    draws := s.draws + 9 }

/-- `Reset()` (rule R550): the registers, then PC from the reset vector; memory and `clk` are left, nothing is pushed. -/
def hostReset (s : State) : State :=
  let target := read16 resetVector (resetRegisters s)
  target.2.setPc target.1

/-- The host's transitions. -/
inductive HostEvent where
  /-- `Enter(0xFFFE)`. -/
  | irq
  /-- `Enter(0xFFFA)`. -/
  | nmi
  /-- `Reset()`. -/
  | reset
  /-- A register write of rule R516. DESIGN CHOICE (log entry 21): this and the writes below act on a halted core too. -/
  | writeA (v : Byte)
  | writeX (v : Byte)
  | writeY (v : Byte)
  | writeSp (v : Byte)
  | writePc (w : Word)
  /-- A write of P, with PLP's treatment of the bits (decision D34). -/
  | writeP (v : Byte)
  /-- The host sets or rebases the cycle counter (rules R30 and R516). -/
  | writeClk (n : Int)
deriving DecidableEq, Repr

/-- What a host transition does. DESIGN CHOICE (log entry 21 says when it is safe): the register writes of rule R516 apply also while
the core is halted, where rule R510 speaks of `step()`, `Enter` and reset alone and rule R34 calls the state stuck; they
leave the halted mark as it is. -/
def hostEvent (e : HostEvent) (s : State) : Out :=
  match e with
  | .irq => hostIrq s
  | .nmi => hostNmi s
  | .reset => .next (hostReset s)
  | .writeA v => .next (s.setA v)
  | .writeX v => .next (s.setX v)
  | .writeY v => .next (s.setY v)
  | .writeSp v => .next (s.setSp v)
  | .writePc w => .next (s.setPc w)
  | .writeP v => .next (s.setP (statusLoad v))
  | .writeClk n => .next { s with clk := n }

/-- The event lines the host finds asserted at a step boundary; the core holds none of them (rules R502 and R503). -/
structure Requests where
  reset : Bool
  nmi : Bool
  irq : Bool
deriving DecidableEq, Repr

/-- The one event taken at a boundary (rule R506): reset over NMI over IRQ, IRQ only when I = 0, and of a halted core only
reset (rule R510). -/
def boundaryEvent (q : Requests) (s : State) : Option HostEvent :=
  if q.reset then some .reset
  else if s.halted then none
  else if q.nmi then some .nmi
  else if q.irq && !s.p.i then some .irq
  else none

end Sys2Proof.Machine
end

