-- ==== Sys2Proof/Safety.lean ====
section
/-! DEFINITION. What counts as a sound state and a safe run, and the terms that claims about the machine are stated in. Values
here are written with remainders modulo 256 and 65536, as the rules of spec/ write them, not with the machine's bit vectors. -/

namespace Sys2Proof.Machine

/-! ### Sound states and transitions -/

/-- A sound state: memory in its canonical form, a valid host memory map (rules R52, R57 and R58), and a halted mark only
under `NMOS_JAM_HALTS` (rule R34). -/
structure State.Inv (s : State) : Prop where
  memory : Memory.wf s.mem = true
  params : s.params.wf = true
  halt : s.halted = true → s.params.nmosJamHalts = true

/-- A transition of the machine: a step of the core, or something the host does between steps (rule R509). -/
inductive Transition (s t : State) : Prop where
  | step (h : step s = .next t)
  | host (e : HostEvent) (h : hostEvent e s = .next t)

/-- The states that transitions lead to from a first one. -/
inductive Reaches (s : State) : State → Prop where
  | start : Reaches s s
  | next {t u : State} (h : Reaches s t) (h' : Transition t u) : Reaches s u

/-- Every address lies in a flat block. -/
def State.AllFlat (s : State) : Prop := ∀ w : Word, s.params.isFlat w = true

/-! ### Values and flags in the rules' own terms -/

/-- `(pc0 + len) mod 65536` (rule R103). -/
def pcAfter (s : State) (len : Nat) : Word := BitVec.ofNat 16 ((s.pc.toNat + len) % 65536)

/-- `(v + 1) mod 256`. -/
def incByte (v : Byte) : Byte := BitVec.ofNat 8 ((v.toNat + 1) % 256)

/-- `(v - 1) mod 256`. -/
def decByte (v : Byte) : Byte := BitVec.ofNat 8 ((v.toNat + 255) % 256)

/-- `hi * 256 + lo`, modulo 65536, plus a number (rule R6). -/
def wordPlus (hi lo : Byte) (n : Nat) : Word := BitVec.ofNat 16 ((hi.toNat * 256 + lo.toNat + n) % 65536)

/-- N and Z of a result (rule R26): N is bit 7, Z is "the result is 0". -/
def nz (p : Flags) (v : Byte) : Flags := { p with n := decide (128 ≤ v.toNat), z := decide (v.toNat = 0) }

/-- N and Z of a result, with a carry. -/
def nzc (p : Flags) (v : Byte) (c : Prop) [Decidable c] : Flags := { nz p v with c := decide c }

/-- A compare's N, Z and C (rule R202). -/
def compared (p : Flags) (r m : Byte) : Flags :=
  { p with
    n := decide (128 ≤ (r.toNat + 256 - m.toNat) % 256)
    z := decide (r.toNat = m.toNat)
    c := decide (m.toNat ≤ r.toNat) }

/-- The flags after an arithmetic result. -/
def arith (p : Flags) (r : FlagResult) : Flags := { p with n := r.n, v := r.v, z := r.z, c := r.c }

/-- The results of the four shifts and rotates (rules R251 to R254). -/
def aslByte (v : Byte) : Byte := BitVec.ofNat 8 (v.toNat * 2 % 256)

/-- LSR's result (rule R252). -/
def lsrByte (v : Byte) : Byte := BitVec.ofNat 8 (v.toNat / 2)

/-- ROL's result with the old carry (rule R253). -/
def rolByte (v : Byte) (c : Bool) : Byte := BitVec.ofNat 8 ((v.toNat * 2 + bitNat c) % 256)

/-- ROR's result with the old carry (rule R254). -/
def rorByte (v : Byte) (c : Bool) : Byte := BitVec.ofNat 8 (v.toNat / 2 + bitNat c * 128)

/-- The signed value of a byte (`sext_8` of rule R7). -/
def signed (v : Byte) : Int := if v.toNat < 128 then v.toNat else (v.toNat : Int) - 256

/-! ### Frames -/

/-- What one `MemWrite(addr, 1, v)` leaves of memory and of the host's calls (rules R54 to R56): in a flat block the byte is
there and the host is not called; in a handler block memory is as before and one write is recorded. No other byte changes. -/
def Stored (s t : State) (addr : Word) (v : Byte) : Prop :=
  (s.params.isFlat addr = true → t.flat addr = v ∧ t.hostLog = s.hostLog) ∧
    (s.params.isFlat addr = false →
      t.mem = s.mem ∧ t.hostLog = .write (addr.toNat / s.params.blockSize) addr s.clk v :: s.hostLog) ∧
    ∀ a : Nat, a ≠ addr.toNat → Memory.read t.mem a = Memory.read s.mem a

/-- The instruction completes as one store: PC past it, its cycles charged, SP as given, one byte written, and every other
field as before. -/
def StoreRuns (i : Instr) (s : State) (sp : Byte) (addr : Word) (v : Byte) (len cycles : Nat) : Prop :=
  ∃ t, exec i s = .next t ∧
    t = { s with sp := sp, pc := pcAfter s len, clk := s.clk + cycles, mem := t.mem, hostLog := t.hostLog } ∧
    Stored s t addr v

/-- The byte a memory operand reads, and the state its read leaves. -/
def operandOf (m : EaMode) (s : State) : Byte × State := m.load (m.resolve s).ea s

/-- The instruction completes as one read and one write of the same address (rule R72): the byte `r` is written, A and the
flags are as given, and every other field is as before but for the calls and draws of the two accesses. -/
def RmwRuns (i : Instr) (m : EaMode) (s : State) (r a : Byte) (p : Flags) : Prop :=
  ∃ t, exec i s = .next t ∧
    t = { s with
      a := a
      p := p
      pc := pcAfter s (lengthOf m.operands)
      clk := s.clk + m.rmwCycles
      mem := t.mem
      hostLog := t.hostLog
      draws := (operandOf m s).2.draws } ∧
    Stored (operandOf m s).2 t (m.resolve s).ea r

/-- The state a read-kind instruction leaves with these registers and flags: the operand is read once, PC is past the
instruction and its cycles are charged; memory, SP and the rest are as before. -/
def afterRead (r : ReadOp) (extra : Nat) (s : State) (a x y : Byte) (p : Flags) : State :=
  { s with
    a := a
    x := x
    y := y
    p := p
    pc := pcAfter s (lengthOf r.operands)
    clk := s.clk + (r.cycles + r.penalty s + extra : Nat)
    hostLog := (r.load s).2.hostLog
    draws := (r.load s).2.draws }

/-- The state a one-byte instruction without a memory access leaves with these registers and flags. -/
def afterImplied (cycles : Nat) (s : State) (a x y sp : Byte) (p : Flags) : State :=
  { s with a := a, x := x, y := y, sp := sp, p := p, pc := pcAfter s 1, clk := s.clk + cycles }

/-- The state a two-byte immediate instruction leaves with these registers and flags, 2 cycles later. -/
def afterImm (s : State) (a x : Byte) (p : Flags) : State :=
  { s with a := a, x := x, p := p, pc := pcAfter s 2, clk := s.clk + 2 }

/-- The three stack bytes an exception entry writes below a stack pointer, the return address high byte first (rules R63 and
R358), with every other byte as before. -/
def Stacked (s t : State) (ret : Word) (image : Byte) : Prop :=
  t.flat (stackAddr s.sp) = hiByte ret ∧
    t.flat (stackAddr (decByte s.sp)) = loByte ret ∧
    t.flat (stackAddr (decByte (decByte s.sp))) = image ∧
    ∀ a : Nat, a ≠ (stackAddr s.sp).toNat → a ≠ (stackAddr (decByte s.sp)).toNat →
      a ≠ (stackAddr (decByte (decByte s.sp))).toNat → Memory.read t.mem a = Memory.read s.mem a

end Sys2Proof.Machine

namespace Sys2Proof

open Machine

/-! ### Who writes what -/

/-- The instructions after which the hook is called (rule R106). -/
def Instr.callsHook : Instr → Bool
  | .cli => true
  | .plp => true
  | .rti => true
  | _ => false

/-- The writers of A (rule R20 and the instructions' own rules). -/
def Instr.writesA : Instr → Bool
  | .lda _ | .pla | .txa | .tya | .ora _ | .and _ | .eor _ | .adc _ | .sbc _ | .sbcEb _ => true
  | .asl .acc | .lsr .acc | .rol .acc | .ror .acc | .ina | .dea => true
  | .slo _ | .rla _ | .sre _ | .rra _ | .isb _ | .lax _ | .lxa _ | .anc _ | .anc2b _ | .alr _ | .arr _ | .xaa _ => true
  | .las _ => true
  | _ => false

/-- The writers of X (rule R20 and the instructions' own rules). XAA is not among them: DEDUCED, log entry 16. -/
def Instr.writesX : Instr → Bool
  | .ldx _ | .tax | .tsx | .inx | .dex | .plx | .lax _ | .lxa _ | .axs _ | .las _ => true
  | _ => false

/-- The writers of Y (rule R20). -/
def Instr.writesY : Instr → Bool
  | .ldy _ | .tay | .iny | .dey | .ply => true
  | _ => false

/-- The writers of SP (rule R21): TXS, every push and pop, and the NMOS LAS and TAS. -/
def Instr.writesSp : Instr → Bool
  | .txs | .pha | .php | .phx | .phy | .pla | .plp | .plx | .ply | .jsr _ | .rts | .brk | .rti | .las _ | .tas _ => true
  | _ => false

/-- The instructions that make a `MemWrite`: stores, read-modify-writes of memory and pushes (rule R110). -/
def Instr.writesMemory : Instr → Bool
  | .sta _ | .stx _ | .sty _ | .stz _ | .sax _ | .ahx _ | .tas _ | .shy _ | .shx _ => true
  | .asl (.mem _) | .lsr (.mem _) | .rol (.mem _) | .ror (.mem _) | .inc _ | .dec _ | .tsb _ | .trb _ => true
  | .slo _ | .rla _ | .sre _ | .rra _ | .dcp _ | .isb _ => true
  | .pha | .php | .phx | .phy | .jsr _ | .brk => true
  | _ => false

/-- The writers of N (rule R28). -/
def Instr.writesN : Instr → Bool
  | .lda _ | .ldx _ | .ldy _ | .tax | .tay | .txa | .tya | .tsx | .ora _ | .and _ | .eor _ | .adc _ | .sbc _ => true
  | .sbcEb _ | .cmp _ | .cpx _ | .cpy _ | .bit _ | .asl _ | .lsr _ | .rol _ | .ror _ | .inc _ | .dec _ => true
  | .inx | .iny | .dex | .dey | .pla | .plp | .rti | .ina | .dea | .plx | .ply => true
  | .slo _ | .rla _ | .sre _ | .rra _ | .dcp _ | .isb _ | .lax _ | .lxa _ | .anc _ | .anc2b _ | .alr _ | .arr _ => true
  | .xaa _ | .axs _ | .las _ => true
  | _ => false

/-- The writers of Z (rule R28): those of N, and CMOS BIT #, TSB and TRB. -/
def Instr.writesZ (i : Instr) : Bool :=
  match i with
  | .bitImm _ => true
  | .tsb _ => true
  | .trb _ => true
  | _ => i.writesN

/-- The writers of V (rule R28). -/
def Instr.writesV : Instr → Bool
  | .adc _ | .sbc _ | .sbcEb _ | .bit _ | .clv | .plp | .rti | .rra _ | .isb _ | .arr _ => true
  | _ => false

/-- The writers of D (rule R28): BRK on CMOS only. -/
def Instr.writesD (v : Variant) : Instr → Bool
  | .cld | .sed | .plp | .rti => true
  | .brk => v.isCmos
  | _ => false

/-- The writers of I (rule R28). -/
def Instr.writesI : Instr → Bool
  | .cli | .sei | .plp | .rti | .brk => true
  | _ => false

/-- The writers of C (rule R28). -/
def Instr.writesC : Instr → Bool
  | .adc _ | .sbc _ | .sbcEb _ | .cmp _ | .cpx _ | .cpy _ | .asl _ | .lsr _ | .rol _ | .ror _ | .clc | .sec => true
  | .plp | .rti | .slo _ | .rla _ | .sre _ | .rra _ | .dcp _ | .isb _ | .anc _ | .anc2b _ | .alr _ | .arr _ | .axs _ => true
  | _ => false

/-! ### What an instruction costs, by rule R104 -/

/-- The page-cross predicate of an instruction's operand (rule R105). It is read only where the map marks `+`. -/
def Instr.crosses (s : State) : Instr → Bool
  | .lda (.mem m) | .ldx (.mem m) | .ldy (.mem m) | .ora (.mem m) | .and (.mem m) | .eor (.mem m) => (m.resolve s).cross
  | .adc (.mem m) | .sbc (.mem m) | .cmp (.mem m) | .cpx (.mem m) | .cpy (.mem m) | .bit m | .lax m => (m.resolve s).cross
  | .las w => (Ea.indexed w s.y).cross
  | .nopUndoc _ (.absX w) => (Ea.indexed w s.x).cross
  | _ => false

/-- The taken condition and the offset of a branch (rules R301 to R309). -/
def Instr.branch? (s : State) : Instr → Option (Bool × Byte)
  | .bpl b => some (!s.p.n, b)
  | .bmi b => some (s.p.n, b)
  | .bvc b => some (!s.p.v, b)
  | .bvs b => some (s.p.v, b)
  | .bcc b => some (!s.p.c, b)
  | .bcs b => some (s.p.c, b)
  | .bne b => some (!s.p.z, b)
  | .beq b => some (s.p.z, b)
  | .bra b => some (true, b)
  | _ => none

/-- Where a taken branch goes (rule R123): `(pc0 + 2 + sext_8(b1)) mod 65536`, as a number. -/
def branchGoal (s : State) (b : Byte) : Nat := (((s.pc.toNat : Int) + 2 + signed b) % 65536).toNat

/-- `extra` of rule R104: a taken branch's 1 or 2 cycles, and the CMOS decimal cycle of ADC and SBC. -/
def Instr.extraCycles (s : State) (i : Instr) : Nat :=
  match i.branch? s, i with
  | some (true, b), _ => if branchGoal s b / 256 = (s.pc.toNat + 2) % 65536 / 256 then 1 else 2
  | _, .adc _ => if s.params.variant = .cmos ∧ s.p.d = true then 1 else 0
  | _, .sbc _ => if s.params.variant = .cmos ∧ s.p.d = true then 1 else 0
  | _, _ => 0

end Sys2Proof

namespace Sys2Proof.Machine

/-- The state a branch leaves (rule R300): taken, PC is the target and the cost 3, or 4 on another page than `pc0 + 2`; not
taken, PC is past the branch and the cost 2. Nothing else changes. -/
def branched (s : State) (b : Byte) (cond : Bool) : State :=
  if cond then
    { s with
      pc := BitVec.ofNat 16 (branchGoal s b)
      clk := s.clk + if branchGoal s b / 256 = (s.pc.toNat + 2) % 65536 / 256 then 3 else 4 }
  else { s with pc := pcAfter s 2, clk := s.clk + 2 }

/-- The number that a BCD byte writes in decimal. -/
def bcdValue (v : Byte) : Nat := v.toNat / 16 * 10 + v.toNat % 16

/-- Both digits of a byte are decimal. -/
def isBcd (v : Byte) : Prop := v.toNat / 16 ≤ 9 ∧ v.toNat % 16 ≤ 9

/-- The outcome with the open parameters of its state replaced. -/
def outWithParams (q : Params) (o : Out) : Out :=
  match o with
  | .next t => .next { t with params := q }
  | .fault r => .fault r
  | .refused r => .refused r

end Sys2Proof.Machine

namespace Sys2Proof

/-- The state's open parameters replaced (decisions D17 and D18). -/
def Params.withOpen (q : Params) (xaa lxa : Byte) (sh : Bool) : Params :=
  { q with xaaMagic := xaa, lxaMagic := lxa, shPageCrossCorrupts := sh }

end Sys2Proof
end

