-- ==== Sys2Proof/Certificates/Slice0/Obligations.lean ====
section
/-! DEFINITION. The statements for the provers, from the numbered rules of spec/. Each docstring names what it formalises. -/

open Sys2Proof Sys2Proof.Machine

/-! ### Encoding -/

/-- Decoding the bytes of a well-formed instruction gives it back, whatever bytes follow (rules R80, R88, R89). -/
def Obligations.DecodeUndoesEncode : Prop :=
  ∀ (v : Variant) (i : Instr) (rest : List Byte), WellFormed v i → decode v (encode v i ++ rest) = .ok (i, rest)

/-- Every opcode byte of either table stands for a well-formed instruction, and encoding that gives back the byte with the
operand bytes it asks for (rule R90). -/
def Obligations.EncodeUndoesDecode : Prop :=
  ∀ (v : Variant) (op b1 b2 : Byte),
    WellFormed v (decodeOp v op b1 b2) ∧
      encode v (decodeOp v op b1 b2) = op :: [b1, b2].take (opLength v op - 1)

/-- No encoding traps: any three bytes or more begin with a well-formed instruction of the variant (rules R90, R92). -/
def Obligations.EveryByteDecodes : Prop :=
  ∀ (v : Variant) (bytes : List Byte), 3 ≤ bytes.length →
    ∃ i, WellFormed v i ∧ decode v bytes = .ok (i, bytes.drop i.length)

/-- Words written out from the rules' examples decode to the instructions they stand for. -/
def Obligations.ExampleWordsDecode : Prop :=
  decode .nmos [0xA9, 0x41] = .ok (.lda (.imm 0x41), []) ∧
    decode .nmos [0x9D, 0xFF, 0x12] = .ok (.sta (.absX 0x12FF), []) ∧
    decode .nmos [0x6C, 0xFF, 0x02] = .ok (.jmp (.ind 0x02FF), []) ∧
    decode .nmos [0x07, 0x10] = .ok (.slo (.zp 0x10), []) ∧
    decode .nmos [0x1C, 0xFF, 0x12] = .ok (.nopUndoc 0x1C (.absX 0x12FF), []) ∧
    decode .nmos [0x02, 0x55] = .ok (.jam 0x02 0x55, []) ∧
    decode .cmos [0x64, 0x40] = .ok (.stz (.zp 0x40), []) ∧
    decode .cmos [0x80, 0xFE] = .ok (.bra 0xFE, []) ∧
    decode .cmos [0xDB] = .ok (.nopBad 0xDB .one, []) ∧
    decode .cmos [0x5C, 0x34, 0x12] = .ok (.nopBad 0x5C (.three 0x1234), [])

/-! ### The step -/

/-- A step of a machine that is not halted reads the opcode byte at PC and then the operand bytes it asks for, each once, in
address order and through the block dispatch, and is the meaning of the instruction they decode to, in the state these reads
leave; `exec` itself moves PC past the bytes. Where they lie in flat memory that state is the same state (rules R71, R100 to
R103). What is fetched, and when, are the spec's decisions D8, D10 and D32; that a JAM under
`NMOS_JAM_HALTS` has its operand byte fetched too is the model's choice (log entry 13). -/
def Obligations.StepRunsTheDecodedInstruction : Prop :=
  ∀ (s : State) (i : Instr) (rest : List Byte), s.halted = false →
    (let op := memRead s.pc s
      let b1 := memRead (s.pc + 1) op.2
      let b2 := memRead (s.pc + 2) b1.2
      decode s.params.variant [op.1, b1.1, b2.1] = .ok (i, rest) →
        step s = exec i (if i.length = 1 then op.2 else if i.length = 2 then b1.2 else b2.2)) ∧
      ((∀ k : Nat, k < i.length → s.params.isFlat (s.pc + BitVec.ofNat 16 k) = true) →
        decode s.params.variant [s.flat s.pc, s.flat (s.pc + 1), s.flat (s.pc + 2)] = .ok (i, rest) →
          step s = exec i s)

/-- A step has no failure outcome: a machine that is not halted always has a next state (rules R108 and R501). -/
def Obligations.StepNeverFails : Prop := ∀ s : State, s.halted = false → ∃ t, step s = .next t

/-- A halted machine takes no step and no interrupt entry; reset applies and clears the mark (rule R510). The halted
mark is the spec's decision D15. It says nothing of the host's register
writes, which the model lets act on a halted core (log entry 21). -/
def Obligations.HaltedTakesOnlyReset : Prop :=
  ∀ s : State, s.halted = true →
    (∀ t, step s ≠ .next t) ∧ (∀ t, hostEvent .irq s ≠ .next t) ∧ (∀ t, hostEvent .nmi s ≠ .next t) ∧
      ∃ t, hostEvent .reset s = .next t ∧ t.halted = false

/-! ### Invariants of every transition -/

/-- Every step and every host transition keeps a state sound: memory canonical, the host's map valid, a halted mark only
under `NMOS_JAM_HALTS` (rules R34, R57, R58). The halted mark is the spec's decision D15. -/
def Obligations.TransitionsKeepInv : Prop := ∀ s t : State, s.Inv → Transition s t → t.Inv

/-- The state after reset is sound, and as rule R551 says PC is from the reset vector of its own memory, I = 1 and the core
is not halted. The bytes of that memory are the model's choice (log entry 2). -/
def Obligations.ResetStateIsSound : Prop :=
  State.reset.Inv ∧ State.reset.pc = (read16 0xFFFC State.reset).1 ∧ State.reset.p.i = true ∧ State.reset.halted = false

/-- No transition writes a parameter: `VARIANT` and the host's map stay as they are (rules R2 and R31). -/
def Obligations.ParametersNeverChange : Prop := ∀ s t : State, Transition s t → t.params = s.params

/-! ### Rules about all instructions -/

/-- The cost of every opcode byte of either variant is the map's base cycles, plus the page penalty where the map marks
`+` and the operand crosses, plus the branch and CMOS decimal cycles; after CLI, PLP and RTI it is what the hook is told
(rules R88, R89, R104, R106). The strict accounting and the hook after the charge are the spec's decisions D27 and D14.
For BRA the map's cell prints 3 as the least total; base 2 and 1 or 2 more is the model's reading (log entry 17). -/
def Obligations.CyclesAreTheMaps : Prop :=
  ∀ (op b1 b2 : Byte) (s : State),
    let v := s.params.variant
    let i := decodeOp v op b1 b2
    let cost : Nat := mapBase v op + (if mapPlus v op = true ∧ i.crosses s = true then 1 else 0) + i.extraCycles s
    ∃ t, exec i s = .next t ∧ (i.callsHook = false → t.clk = s.clk + cost) ∧
      (i.callsHook = true → t.hostLog.head? = some (.hook (s.clk + cost)))

/-- The breakout hook is called after CLI, PLP and RTI and only after these; `clk` takes its answer (rule R106). The
hook after the charge is the spec's decision D14; its answer is a free value (log entry 6). -/
def Obligations.HookAfterCliPlpRtiOnly : Prop :=
  ∀ (i : Instr) (s t : State), exec i s = .next t →
    (i.callsHook = true → ∃ called draw, t.hostLog.head? = some (.hook called) ∧ t.clk = Config.breakoutHook draw called) ∧
      (i.callsHook = false → ∀ calls, t.hostLog = calls ++ s.hostLog → ∀ c, .hook c ∉ calls)

/-- A flag changes only under the instructions that rule R28 lists for it. -/
def Obligations.FlagWriters : Prop :=
  ∀ (i : Instr) (s t : State), exec i s = .next t →
    (i.writesN = false → t.p.n = s.p.n) ∧ (i.writesV = false → t.p.v = s.p.v) ∧
      (i.writesD s.params.variant = false → t.p.d = s.p.d) ∧ (i.writesI = false → t.p.i = s.p.i) ∧
      (i.writesZ = false → t.p.z = s.p.z) ∧ (i.writesC = false → t.p.c = s.p.c)

/-- A register changes only under the instructions that rules R20 and R21 and the instructions' own rules list for it.
That XAA leaves X is the model's choice (log entry 16): rule R20 lists XAA as a writer of X, and rule R413 writes A alone. -/
def Obligations.RegisterWriters : Prop :=
  ∀ (i : Instr) (s t : State), exec i s = .next t →
    (i.writesA = false → t.a = s.a) ∧ (i.writesX = false → t.x = s.x) ∧ (i.writesY = false → t.y = s.y) ∧
      (i.writesSp = false → t.sp = s.sp)

/-- Only stores, read-modify-writes of memory and pushes write: under any other instruction memory is as before and no write
reaches a handler block (rules R73, R74, R110). -/
def Obligations.MemoryWriters : Prop :=
  ∀ (i : Instr) (s t : State), exec i s = .next t → i.writesMemory = false →
    t.mem = s.mem ∧ ∀ calls, t.hostLog = calls ++ s.hostLog → ∀ b a c v, .write b a c v ∉ calls

/-- The open parameters matter to LXA, XAA, AHX, TAS, SHY and SHX alone: any other instruction does the same whatever they
are (rules R409, R413, R416; decisions D17 and D18). -/
def Obligations.OpenParametersStayInTheirOpcodes : Prop :=
  ∀ (i : Instr) (s : State) (xaa lxa : Byte) (sh : Bool),
    (match i with
      | .lxa _ | .xaa _ | .ahx _ | .tas _ | .shy _ | .shx _ => False
      | _ => True) →
    exec i { s with params := s.params.withOpen xaa lxa sh } =
      outWithParams (s.params.withOpen xaa lxa sh) (exec i s)

/-- Apart from `clk` itself nothing depends on timing: with every block flat, an instruction that does not call the hook does
the same from any cycle count, and adds the same cost (rule R561). -/
def Obligations.TimingChangesNothingElse : Prop :=
  ∀ (i : Instr) (s : State) (k : Int), s.AllFlat → i.callsHook = false →
    ∃ t, exec i s = .next t ∧ exec i { s with clk := k } = .next { t with clk := k + (t.clk - s.clk) }

/-! ### Memory, pointers and the stack -/

/-- A block is flat unless the host backs it. A flat read is the byte of memory with no effect, and a flat write stores the
byte. A handler read is the host's answer and one record, and a handler write is one record and changes no core state
(rules R52 to R54 and R56, decisions D5 and D6). The answer is a free value, and the record and the count of draws are the
model's own fields (log entries 5 and 10). -/
def Obligations.AccessByBlock : Prop :=
  ∀ (s : State) (w : Word) (v : Byte),
    let block := w.toNat / s.params.blockSize
    (block ∉ s.params.handlerBlocks →
        memRead w s = (Memory.read s.mem w.toNat, s) ∧ memWrite w v s = { s with mem := Memory.write s.mem w.toNat v }) ∧
      (block ∈ s.params.handlerBlocks →
        (∃ answer, memRead w s =
          (answer, { s with hostLog := .read block w s.clk answer :: s.hostLog, draws := s.draws + 1 })) ∧
          memWrite w v s = { s with hostLog := .write block w s.clk v :: s.hostLog })

/-- A flat byte reads as the last value written to it, and no other flat byte is touched (rule R55). That every write to
a flat block lands is the spec's decision D7. -/
def Obligations.FlatBytesKeepTheLastWrite : Prop :=
  ∀ (s : State) (w w' : Word) (v : Byte), s.params.isFlat w = true → s.params.isFlat w' = true →
    (memRead w' (memWrite w v s)).1 = if w' = w then v else (memRead w' s).1

/-- `Read16`, `Read16Zp` and `Read16PageWrapped` read the low byte first, and the high byte from the next address modulo 65536,
the next offset modulo 256, and the next address of the same page (rules R59 to R61). -/
def Obligations.SixteenBitReads : Prop :=
  ∀ (s : State) (w : Word) (off : Byte),
    read16 w s =
        (let lo := memRead w s
        let hi := memRead (BitVec.ofNat 16 ((w.toNat + 1) % 65536)) lo.2
        (wordPlus hi.1 lo.1 0, hi.2)) ∧
      read16Zp off s =
        wordPlus (Memory.read s.mem ((off.toNat + 1) % 256)) (Memory.read s.mem off.toNat) 0 ∧
      read16PageWrapped w s =
        (let lo := memRead w s
        let hi := memRead (BitVec.ofNat 16 (w.toNat / 256 * 256 + (w.toNat % 256 + 1) % 256)) lo.2
        (wordPlus hi.1 lo.1 0, hi.2))

/-- `Push8` and `Pop8` (rule R62). `Push16` pushes the high byte first, `Pop16` pops the low byte first, and one after
the other restores the value and SP (rule R63). Page 1 and the byte order are the spec's decisions D2 and D3. -/
def Obligations.StackOperations : Prop :=
  ∀ (s : State) (v : Byte) (w : Word), s.params.wf = true →
    push8 v s = { memWrite (BitVec.ofNat 16 (0x0100 + s.sp.toNat)) v s with sp := decByte s.sp } ∧
      pop8 s = memRead (BitVec.ofNat 16 (0x0100 + (s.sp.toNat + 1) % 256)) { s with sp := incByte s.sp } ∧
      push16 w s = push8 (BitVec.ofNat 8 (w.toNat % 256)) (push8 (BitVec.ofNat 8 (w.toNat / 256)) s) ∧
      pop16 s =
        (let lo := pop8 s
        let hi := pop8 lo.2
        (wordPlus hi.1 lo.1 0, hi.2)) ∧
      (pop16 (push16 w s)).1 = w ∧ (pop16 (push16 w s)).2.sp = s.sp

/-- The status image and its loading, bit by bit; loading an image gives the flags back (rule R25). The bit positions
are the spec's decision D25. -/
def Obligations.StatusImageBits : Prop :=
  ∀ (p : Flags) (brk : Bool) (v : Byte),
    (statusImage brk p).toNat =
        bitNat p.n * 128 + bitNat p.v * 64 + 32 + bitNat brk * 16 + bitNat p.d * 8 + bitNat p.i * 4 + bitNat p.z * 2 +
          bitNat p.c ∧
      statusLoad v =
        { n := v.getLsbD 7, v := v.getLsbD 6, d := v.getLsbD 3, i := v.getLsbD 2, z := v.getLsbD 1, c := v.getLsbD 0 } ∧
      statusLoad (statusImage brk p) = p

/-! ### Addressing modes -/

/-- The effective address of each mode, with its wrap (rules R114 to R122); and the operand byte: an immediate is the byte
itself, a memory operand is read once, at the effective address, through the block dispatch, and in the zero-page modes that
is the flat byte, with no effect (rules R113 and R128). -/
def Obligations.EffectiveAddresses : Prop :=
  ∀ (s : State) (b : Byte) (w : Word) (m : EaMode),
    let pointer (off : Nat) : Nat :=
      (Memory.read s.mem ((off + 1) % 256)).toNat * 256 + (Memory.read s.mem (off % 256)).toNat
    ((EaMode.zp b).resolve s).ea.toNat = b.toNat ∧
      ((EaMode.zpX b).resolve s).ea.toNat = (b.toNat + s.x.toNat) % 256 ∧
      ((EaMode.zpY b).resolve s).ea.toNat = (b.toNat + s.y.toNat) % 256 ∧
      ((EaMode.abs w).resolve s).ea = w ∧
      ((EaMode.absX w).resolve s).ea.toNat = (w.toNat + s.x.toNat) % 65536 ∧
      ((EaMode.absY w).resolve s).ea.toNat = (w.toNat + s.y.toNat) % 65536 ∧
      ((EaMode.ind b).resolve s).ea.toNat = pointer b.toNat ∧
      ((EaMode.indX b).resolve s).ea.toNat = pointer (b.toNat + s.x.toNat) ∧
      ((EaMode.indY b).resolve s).ea.toNat = (pointer b.toNat + s.y.toNat) % 65536 ∧
      (ReadOp.imm b).load s = (b, s) ∧ (ReadOp.mem m).load s = operandOf m s ∧
      (m.isIn [.zp, .zpX, .zpY] = true → operandOf m s = (Memory.read s.mem (m.resolve s).ea.toNat, s)) ∧
      (s.params.wf = true → operandOf m s = memRead (m.resolve s).ea s)

/-- The page-cross predicate: in abs,X, abs,Y and (zp),Y it compares the pages of base and effective address, and in every
other mode it is false (rule R105). -/
def Obligations.PageCross : Prop :=
  ∀ (s : State) (b : Byte) (w : Word),
    let crosses (base index : Nat) : Bool := decide (base / 256 ≠ (base + index) % 65536 / 256)
    ((EaMode.absX w).resolve s).cross = crosses w.toNat s.x.toNat ∧
      ((EaMode.absY w).resolve s).cross = crosses w.toNat s.y.toNat ∧
      ((EaMode.indY b).resolve s).cross = crosses (read16Zp b s).toNat s.y.toNat ∧
      ∀ m : EaMode, m.isIn [.absX, .absY, .indY] = false → (m.resolve s).cross = false

/-! ### Loads, stores and transfers -/

/-- LDA, LDX, LDY and LAX: the register takes the operand, N and Z follow it, and nothing else but PC, `clk` and the record of
the read changes; LAS loads A, X and SP with the operand AND SP (rules R150, R151, R152, R408, R415). -/
def Obligations.LoadInstructions : Prop :=
  ∀ (r : ReadOp) (m : EaMode) (w : Word) (s : State),
    let v := (r.load s).1
    let u := (operandOf m s).1
    let k := (operandOf (.absY w) s).1 &&& s.sp
    exec (.lda r) s = .next (afterRead r 0 s v s.x s.y (nz s.p v)) ∧
      exec (.ldx r) s = .next (afterRead r 0 s s.a v s.y (nz s.p v)) ∧
      exec (.ldy r) s = .next (afterRead r 0 s s.a s.x v (nz s.p v)) ∧
      exec (.lax m) s = .next (afterRead (.mem m) 0 s u u s.y (nz s.p u)) ∧
      exec (.las w) s = .next { afterRead (.mem (.absY w)) 0 s k k s.y (nz s.p k) with sp := k }

/-- STA, STX, STY, STZ and SAX: one write of the register, of zero, or of A AND X at the effective address, no flag, and no
read of the target (rules R153 to R156, R407). -/
def Obligations.StoreInstructions : Prop :=
  ∀ (m : EaMode) (s : State),
    let ea := (m.resolve s).ea
    let len := lengthOf m.operands
    StoreRuns (.sta m) s s.sp ea s.a len m.storeCycles ∧ StoreRuns (.stx m) s s.sp ea s.x len m.storeCycles ∧
      StoreRuns (.sty m) s s.sp ea s.y len m.storeCycles ∧ StoreRuns (.stz m) s s.sp ea 0 len m.storeCycles ∧
      StoreRuns (.sax m) s s.sp ea (s.a &&& s.x) len m.storeCycles

/-- The six register transfers: the register takes the source, with N and Z from it; TXS alone writes no flag (rules R157 to R162). -/
def Obligations.TransferInstructions : Prop :=
  ∀ s : State,
    exec .tax s = .next (afterImplied 2 s s.a s.a s.y s.sp (nz s.p s.a)) ∧
      exec .tay s = .next (afterImplied 2 s s.a s.x s.a s.sp (nz s.p s.a)) ∧
      exec .txa s = .next (afterImplied 2 s s.x s.x s.y s.sp (nz s.p s.x)) ∧
      exec .tya s = .next (afterImplied 2 s s.y s.x s.y s.sp (nz s.p s.y)) ∧
      exec .tsx s = .next (afterImplied 2 s s.a s.sp s.y s.sp (nz s.p s.sp)) ∧
      exec .txs s = .next (afterImplied 2 s s.a s.x s.y s.x s.p)

/-! ### Logic, arithmetic, compare and bit test -/

/-- ORA, AND and EOR: A takes its OR, AND or exclusive OR with the operand, N and Z follow it, and no other register or flag
changes (rules R203 to R205). -/
def Obligations.LogicInstructions : Prop :=
  ∀ (r : ReadOp) (s : State),
    let v := (r.load s).1
    exec (.ora r) s = .next (afterRead r 0 s (s.a ||| v) s.x s.y (nz s.p (s.a ||| v))) ∧
      exec (.and r) s = .next (afterRead r 0 s (s.a &&& v) s.x s.y (nz s.p (s.a &&& v))) ∧
      exec (.eor r) s = .next (afterRead r 0 s (s.a ^^^ v) s.x s.y (nz s.p (s.a ^^^ v)))

/-- ADC and SBC: A and N, V, Z, C take the binary result when D = 0, and the variant's decimal result when D = 1, which
on CMOS costs one more cycle; EB is SBC # on NMOS (rules R206 and R209). The EB byte is the spec's decision D20. -/
def Obligations.AddAndSubtractInstructions : Prop :=
  ∀ (r : ReadOp) (b : Byte) (s : State),
    let cmos := s.params.variant = .cmos
    let pick (binary nmos cmosRes : FlagResult) : FlagResult :=
      if s.p.d = false then binary else if cmos then cmosRes else nmos
    let extra : Nat := if cmos ∧ s.p.d = true then 1 else 0
    let add (m : Byte) := pick (adcBinary s.a m s.p.c) (adcDecimalNmos s.a m s.p.c) (adcDecimalCmos s.a m s.p.c)
    let sub (m : Byte) := pick (sbcBinary s.a m s.p.c) (sbcDecimalNmos s.a m s.p.c) (sbcDecimalCmos s.a m s.p.c)
    exec (.adc r) s =
        .next (afterRead r extra s (add (r.load s).1).res s.x s.y (arith s.p (add (r.load s).1))) ∧
      exec (.sbc r) s =
        .next (afterRead r extra s (sub (r.load s).1).res s.x s.y (arith s.p (sub (r.load s).1))) ∧
      exec (.sbcEb b) s = .next (afterRead (.imm b) extra s (sub b).res s.x s.y (arith s.p (sub b)))

/-- `AdcBinary`: the sum modulo 256, C its carry, V exactly when the operands have one sign and the result the other, that is,
when the signed sum does not fit a byte (rule R200). -/
def Obligations.BinaryAddition : Prop :=
  ∀ (a m : Byte) (c : Bool),
    let t := a.toNat + m.toNat + bitNat c
    let r := adcBinary a m c
    let exact := signed a + signed m + bitNat c
    r.res.toNat = t % 256 ∧ r.c = decide (t > 0xFF) ∧ r.n = decide (128 ≤ t % 256) ∧ r.z = decide (t % 256 = 0) ∧
      r.v = decide ((128 ≤ a.toNat ↔ 128 ≤ m.toNat) ∧ ¬(128 ≤ a.toNat ↔ 128 ≤ t % 256)) ∧
      r.v = decide (exact < -128 ∨ 127 < exact)

/-- `SbcBinary`: the difference modulo 256, C when there is no borrow, V when the signed difference does not fit a byte;
it is the addition of the complement (rule R201). C as not-borrow is the spec's general knowledge, not its source's. -/
def Obligations.BinarySubtraction : Prop :=
  ∀ (a m : Byte) (c : Bool),
    let t : Int := (a.toNat : Int) - m.toNat - (1 - bitNat c)
    let r := sbcBinary a m c
    let exact := signed a - signed m - (1 - bitNat c)
    (r.res.toNat : Int) = t % 256 ∧ r.c = decide (0 ≤ t) ∧ r.n = decide (128 ≤ t % 256) ∧ r.z = decide (t % 256 = 0) ∧
      r.v = decide (¬(128 ≤ a.toNat ↔ 128 ≤ m.toNat) ∧ ¬(128 ≤ a.toNat ↔ 128 ≤ t % 256)) ∧
      r.v = decide (exact < -128 ∨ 127 < exact) ∧ r = adcBinary a (~~~m) c

/-- Decimal addition of two BCD bytes is addition of the numbers they write, with C the carry out of 99. On every operand, BCD
or not, NMOS takes Z from the binary sum, and CMOS has the same result, C and V, with N and Z from the result (rules R207,
R208). The tens correction and the CMOS V are the spec's decision D16, the operands that are not BCD its decision D36. -/
def Obligations.DecimalAddition : Prop :=
  ∀ (a m : Byte) (c : Bool),
    let sum := bcdValue a + bcdValue m + bitNat c
    let r := adcDecimalNmos a m c
    let q := adcDecimalCmos a m c
    (isBcd a → isBcd m → isBcd r.res ∧ bcdValue r.res = sum % 100 ∧ r.c = decide (100 ≤ sum)) ∧
      r.z = decide ((a.toNat + m.toNat + bitNat c) % 256 = 0) ∧
      q.res = r.res ∧ q.c = r.c ∧ q.v = r.v ∧ q.n = decide (128 ≤ r.res.toNat) ∧ q.z = decide (r.res.toNat = 0)

/-- Decimal subtraction of two BCD bytes is subtraction of the numbers they write modulo 100, with C set when there is no
borrow. On every operand, BCD or not, each digit of the result is the digits' difference with its borrow, less 6 if it
borrows, modulo 16; NMOS takes N, V, Z and C from the binary difference, and CMOS has the same result, C and V, with N and Z
from the result (rules R210, R211). The digit corrections are the spec's decision D16, the operands that are not BCD its
decision D36. -/
def Obligations.DecimalSubtraction : Prop :=
  ∀ (a m : Byte) (c : Bool),
    let difference : Int := (bcdValue a : Int) - bcdValue m - (1 - bitNat c)
    let low : Int := (a.toNat % 16 : Nat) - (m.toNat % 16 : Nat) - (1 - bitNat c)
    let high : Int := (a.toNat / 16 : Nat) - (m.toNat / 16 : Nat) - (if low < 0 then 1 else 0)
    let digit (d : Int) : Int := (if d < 0 then d - 6 else d) % 16
    let r := sbcDecimalNmos a m c
    let q := sbcDecimalCmos a m c
    let b := sbcBinary a m c
    (isBcd a → isBcd m →
        isBcd r.res ∧ (bcdValue r.res : Int) = difference % 100 ∧ r.c = decide (0 ≤ difference)) ∧
      (r.res.toNat : Int) = digit high * 16 + digit low ∧ r.n = b.n ∧ r.v = b.v ∧ r.z = b.z ∧ r.c = b.c ∧
      q.res = r.res ∧ q.c = r.c ∧ q.v = r.v ∧ q.n = decide (128 ≤ r.res.toNat) ∧ q.z = decide (r.res.toNat = 0)

/-- The uncorrected intermediate of NMOS decimal addition, on every operand, and the flags and result it gives (rule
R207). The tens correction is the spec's decision D16. -/
def Obligations.NmosDecimalIntermediate : Prop :=
  ∀ (a m : Byte) (c : Bool),
    let low := a.toNat % 16 + m.toNat % 16 + bitNat c
    let al := if low > 9 then (low - 10) % 16 + 16 else low
    let t := a.toNat / 16 * 16 + m.toNat / 16 * 16 + al
    let u := if t ≥ 0xA0 then t + 0x60 else t
    let r := adcDecimalNmos a m c
    r.res.toNat = u % 256 ∧ r.c = decide (u ≥ 0x100) ∧ r.n = decide (128 ≤ t % 256) ∧
      r.v = decide ((128 ≤ a.toNat ↔ 128 ≤ m.toNat) ∧ ¬(128 ≤ a.toNat ↔ 128 ≤ t % 256)) ∧
      r.z = decide ((a.toNat + m.toNat + bitNat c) % 256 = 0)

/-- CMP, CPX and CPY write N, Z and C of the compare and nothing else (rules R202, R212 to R214). -/
def Obligations.CompareInstructions : Prop :=
  ∀ (r : ReadOp) (s : State),
    let v := (r.load s).1
    exec (.cmp r) s = .next (afterRead r 0 s s.a s.x s.y (compared s.p s.a v)) ∧
      exec (.cpx r) s = .next (afterRead r 0 s s.a s.x s.y (compared s.p s.x v)) ∧
      exec (.cpy r) s = .next (afterRead r 0 s s.a s.x s.y (compared s.p s.y v))

/-- BIT takes N and V from the memory byte and Z from its AND with A; BIT # writes Z alone (rules R215, R216). That BIT
# leaves N and V is the spec's decision D23. -/
def Obligations.BitTestInstructions : Prop :=
  ∀ (m : EaMode) (b : Byte) (s : State),
    let v := (operandOf m s).1
    exec (.bit m) s =
        .next (afterRead (.mem m) 0 s s.a s.x s.y
          { s.p with
            n := decide (128 ≤ v.toNat)
            v := decide (64 ≤ v.toNat % 128)
            z := decide ((s.a &&& v).toNat = 0) }) ∧
      exec (.bitImm b) s = .next (afterRead (.imm b) 0 s s.a s.x s.y { s.p with z := decide ((s.a &&& b).toNat = 0) })

/-! ### Read-modify-write -/

/-- ASL, LSR, ROL and ROR of A, and of memory with one read and one write of the same address (rules R250 to R254). -/
def Obligations.ShiftInstructions : Prop :=
  ∀ (m : EaMode) (s : State),
    let rol (v : Byte) := rolByte v s.p.c
    let ror (v : Byte) := rorByte v s.p.c
    let high (v : Byte) (r : Byte) := nzc s.p r (128 ≤ v.toNat)
    let low (v : Byte) (r : Byte) := nzc s.p r (v.toNat % 2 = 1)
    let ofA (i : Instr) (r : Byte) (p : Flags) : Prop := exec i s = .next (afterImplied 2 s r s.x s.y s.sp p)
    let v := (operandOf m s).1
    ofA (.asl .acc) (aslByte s.a) (high s.a (aslByte s.a)) ∧ ofA (.lsr .acc) (lsrByte s.a) (low s.a (lsrByte s.a)) ∧
      ofA (.rol .acc) (rol s.a) (high s.a (rol s.a)) ∧ ofA (.ror .acc) (ror s.a) (low s.a (ror s.a)) ∧
      RmwRuns (.asl (.mem m)) m s (aslByte v) s.a (high v (aslByte v)) ∧
      RmwRuns (.lsr (.mem m)) m s (lsrByte v) s.a (low v (lsrByte v)) ∧
      RmwRuns (.rol (.mem m)) m s (rol v) s.a (high v (rol v)) ∧
      RmwRuns (.ror (.mem m)) m s (ror v) s.a (low v (ror v))

/-- INC, DEC, TSB and TRB; the last two take Z from the old byte and write no other flag (rules R255, R256, R263, R264). -/
def Obligations.IncrementAndTestMemory : Prop :=
  ∀ (m : EaMode) (s : State),
    let v := (operandOf m s).1
    let tested : Flags := { s.p with z := decide ((s.a &&& v).toNat = 0) }
    RmwRuns (.inc m) m s (incByte v) s.a (nz s.p (incByte v)) ∧
      RmwRuns (.dec m) m s (decByte v) s.a (nz s.p (decByte v)) ∧
      RmwRuns (.tsb m) m s (v ||| s.a) s.a tested ∧ RmwRuns (.trb m) m s (v &&& ~~~s.a) s.a tested

/-- INX, INY, DEX, DEY, INA and DEA: the register plus or minus one modulo 256, with N and Z from it (rules R257 to R262). -/
def Obligations.RegisterIncrements : Prop :=
  ∀ s : State,
    exec .inx s = .next (afterImplied 2 s s.a (incByte s.x) s.y s.sp (nz s.p (incByte s.x))) ∧
      exec .iny s = .next (afterImplied 2 s s.a s.x (incByte s.y) s.sp (nz s.p (incByte s.y))) ∧
      exec .dex s = .next (afterImplied 2 s s.a (decByte s.x) s.y s.sp (nz s.p (decByte s.x))) ∧
      exec .dey s = .next (afterImplied 2 s s.a s.x (decByte s.y) s.sp (nz s.p (decByte s.y))) ∧
      exec .ina s = .next (afterImplied 2 s (incByte s.a) s.x s.y s.sp (nz s.p (incByte s.a))) ∧
      exec .dea s = .next (afterImplied 2 s (decByte s.a) s.x s.y s.sp (nz s.p (decByte s.a)))

/-- A read-modify-write of a handler block makes exactly one read and then one write of the same address, and changes no
flat byte (rule R72). The one write is the spec's decision D9. -/
def Obligations.RmwTouchesAHandlerTwice : Prop :=
  ∀ (m : EaMode) (s : State), m.isIn [.zp, .zpX, .zpY] = false → s.params.isFlat (m.resolve s).ea = false →
    ∀ i ∈ [Instr.asl (.mem m), .lsr (.mem m), .rol (.mem m), .ror (.mem m), .inc m, .dec m, .tsb m, .trb m, .slo m, .rla m,
        .sre m, .rra m, .dcp m, .isb m],
      ∃ t b old new, exec i s = .next t ∧ t.mem = s.mem ∧
        t.hostLog = .write b (m.resolve s).ea s.clk new :: .read b (m.resolve s).ea s.clk old :: s.hostLog

/-! ### Branches, jumps and subroutines -/

/-- The nine branches: taken on their flag's value, to `pc0 + 2` plus the signed offset, at 3 cycles or 4 on another page than
`pc0 + 2`; not taken, 2 cycles. Nothing else changes (rules R300 to R309). -/
def Obligations.BranchInstructions : Prop :=
  ∀ (b : Byte) (s : State),
    exec (.bpl b) s = .next (branched s b (!s.p.n)) ∧ exec (.bmi b) s = .next (branched s b s.p.n) ∧
      exec (.bvc b) s = .next (branched s b (!s.p.v)) ∧ exec (.bvs b) s = .next (branched s b s.p.v) ∧
      exec (.bcc b) s = .next (branched s b (!s.p.c)) ∧ exec (.bcs b) s = .next (branched s b s.p.c) ∧
      exec (.bne b) s = .next (branched s b (!s.p.z)) ∧ exec (.beq b) s = .next (branched s b s.p.z) ∧
      exec (.bra b) s = .next (branched s b true)

/-- JMP in its forms: the NMOS indirect form takes its high byte from the pointer's own page, the CMOS form from the next
address at one more cycle (rule R310). -/
def Obligations.JumpInstructions : Prop :=
  ∀ (w : Word) (s : State),
    let via (target : Word × State) (cycles : Int) : State :=
      { s with
        pc := target.1
        clk := s.clk + cycles
        hostLog := target.2.hostLog
        draws := target.2.draws }
    exec (.jmp (.abs w)) s = .next { s with pc := w, clk := s.clk + 3 } ∧
      exec (.jmp (.ind w)) s =
        .next (if s.params.variant = .nmos then via (read16PageWrapped w s) 5 else via (read16 w s) 6) ∧
      exec (.jmp (.indX w)) s = .next (via (read16 (BitVec.ofNat 16 ((w.toNat + s.x.toNat) % 65536)) s) 6)

/-- JSR pushes the address of its own last byte, high byte first, and goes to its operand (rule R311). The bytes are
fetched before the push (the spec's decision D22). -/
def Obligations.SubroutineCall : Prop :=
  ∀ (w : Word) (s : State), s.params.wf = true →
    ∃ t, exec (.jsr w) s = .next t ∧
      t = { s with pc := w, sp := decByte (decByte s.sp), clk := s.clk + 6, mem := t.mem } ∧
      t.flat (stackAddr s.sp) = hiByte (pcAfter s 2) ∧ t.flat (stackAddr (decByte s.sp)) = loByte (pcAfter s 2) ∧
      ∀ a : Nat, a ≠ (stackAddr s.sp).toNat → a ≠ (stackAddr (decByte s.sp)).toNat →
        Memory.read t.mem a = Memory.read s.mem a

/-- RTS goes to the popped address plus one, modulo 65536 (rule R312). -/
def Obligations.SubroutineReturn : Prop :=
  ∀ s : State, s.params.wf = true →
    exec .rts s = .next { s with
      pc := wordPlus (s.flat (stackAddr (incByte (incByte s.sp)))) (s.flat (stackAddr (incByte s.sp))) 1
      sp := incByte (incByte s.sp)
      clk := s.clk + 6 }

/-- RTS after JSR resumes at the instruction after the JSR, with SP as it was (conflict C2; rules R311, R312). -/
def Obligations.CallThenReturn : Prop :=
  ∀ (w : Word) (s : State), s.params.wf = true →
    ∃ t u, exec (.jsr w) s = .next t ∧ exec .rts t = .next u ∧ u.pc = pcAfter s 3 ∧ u.sp = s.sp

/-! ### Stack, flags and exceptions -/

/-- PHA, PHX, PHY and PHP: one byte is stored at `0x0100 | SP` and SP steps down; PHP's byte has bits 4 and 5 set
(rules R350, R351, R354, R355). -/
def Obligations.PushInstructions : Prop :=
  ∀ s : State,
    let top := stackAddr s.sp
    StoreRuns .pha s (decByte s.sp) top s.a 1 3 ∧ StoreRuns .phx s (decByte s.sp) top s.x 1 3 ∧
      StoreRuns .phy s (decByte s.sp) top s.y 1 3 ∧ StoreRuns .php s (decByte s.sp) top (statusImage true s.p) 1 3

/-- PLA, PLX and PLY take the byte above SP, with N and Z from it (rules R352, R356, R357). -/
def Obligations.PullInstructions : Prop :=
  ∀ s : State, s.params.wf = true →
    let up := incByte s.sp
    let v := s.flat (stackAddr up)
    exec .pla s = .next (afterImplied 4 s v s.x s.y up (nz s.p v)) ∧
      exec .plx s = .next (afterImplied 4 s s.a v s.y up (nz s.p v)) ∧
      exec .ply s = .next (afterImplied 4 s s.a s.x v up (nz s.p v))

/-- PLP loads the six flags from the byte above SP, CLI clears I, and then the hook is called with the charged `clk` and `clk`
takes its answer (rules R353, R362, R106). -/
def Obligations.PullStatusAndCli : Prop :=
  ∀ s : State, s.params.wf = true →
    let hooked (t : State) : State :=
      { t with
        clk := Config.breakoutHook t.draws t.clk
        hostLog := .hook t.clk :: t.hostLog
        draws := t.draws + 1 }
    let up := incByte s.sp
    exec .plp s = .next (hooked (afterImplied 4 s s.a s.x s.y up (statusLoad (s.flat (stackAddr up))))) ∧
      exec .cli s = .next (hooked (afterImplied 2 s s.a s.x s.y s.sp { s.p with i := false }))

/-- CLC, SEC, SEI, CLV, CLD and SED write their flag and nothing else (rules R360, R361, R363 to R366). -/
def Obligations.FlagInstructions : Prop :=
  ∀ s : State,
    let flags (p : Flags) : Out := .next (afterImplied 2 s s.a s.x s.y s.sp p)
    exec .clc s = flags { s.p with c := false } ∧ exec .sec s = flags { s.p with c := true } ∧
      exec .sei s = flags { s.p with i := true } ∧ exec .clv s = flags { s.p with v := false } ∧
      exec .cld s = flags { s.p with d := false } ∧ exec .sed s = flags { s.p with d := true }

/-- BRK pushes `pc0 + 2` and the status image with the break bit set, sets I, clears D on CMOS only, and goes to the
vector at 0xFFFE (rule R358). That D is kept on NMOS follows conflict C1. -/
def Obligations.BreakEntry : Prop :=
  ∀ s : State, s.params.wf = true →
    let target := read16 0xFFFE s
    ∃ t, exec .brk s = .next t ∧
      t = { s with
        pc := target.1
        sp := decByte (decByte (decByte s.sp))
        p := { s.p with i := true, d := if s.params.variant = .cmos then false else s.p.d }
        clk := s.clk + 7
        mem := t.mem
        hostLog := target.2.hostLog
        draws := target.2.draws } ∧
      Stacked s t (pcAfter s 2) (statusImage true s.p)

/-- IRQ and NMI entry of a core that is not halted: as BRK's, but PC itself is pushed, the break bit is 0, and NMI has
its own vector; IRQ only while I = 0 (rules R502 to R504). The host's entry is the spec's decisions D12 and D13, and D
follows conflict C1; that a handler block with the vector is told the clk before the 7 cycles is the model's choice (log
entry 15). -/
def Obligations.InterruptEntry : Prop :=
  ∀ s : State, s.params.wf = true → s.halted = false →
    let entered (vector : Word) (t : State) : Prop :=
      t = { s with
          pc := (read16 vector s).1
          sp := decByte (decByte (decByte s.sp))
          p := { s.p with i := true, d := if s.params.variant = .cmos then false else s.p.d }
          clk := s.clk + 7
          mem := t.mem
          hostLog := (read16 vector s).2.hostLog
          draws := (read16 vector s).2.draws } ∧
        Stacked s t s.pc (statusImage false s.p)
    (∃ t, hostEvent .nmi s = .next t ∧ entered 0xFFFA t) ∧
      (s.p.i = false → ∃ t, hostEvent .irq s = .next t ∧ entered 0xFFFE t) ∧
      (s.p.i = true → ∀ t, hostEvent .irq s ≠ .next t)

/-- At a boundary at most one event is taken: reset over NMI over IRQ, IRQ only when I = 0, and of a halted core only
reset (rules R506 and R510). The order is the spec's decision D13, the halted mark its decision D15. -/
def Obligations.EventPriority : Prop :=
  ∀ (q : Requests) (s : State),
    (q.reset = true → boundaryEvent q s = some .reset) ∧
      (q.reset = false → s.halted = true → boundaryEvent q s = none) ∧
      (q.reset = false → s.halted = false → q.nmi = true → boundaryEvent q s = some .nmi) ∧
      (q.reset = false → s.halted = false → q.nmi = false → q.irq = true → s.p.i = false →
        boundaryEvent q s = some .irq) ∧
      (q.reset = false → q.nmi = false → (q.irq = false ∨ s.p.i = true) → boundaryEvent q s = none)

/-- RTI loads the six flags from the first byte popped, PC from the next two with no adjustment, then calls the hook
(rule R359). The pop order is the spec's decision D24. -/
def Obligations.ReturnFromInterrupt : Prop :=
  ∀ s : State, s.params.wf = true →
    let sp1 := incByte s.sp
    let sp2 := incByte sp1
    let sp3 := incByte sp2
    exec .rti s = .next { s with
      pc := wordPlus (s.flat (stackAddr sp3)) (s.flat (stackAddr sp2)) 0
      sp := sp3
      p := statusLoad (s.flat (stackAddr sp1))
      clk := Config.breakoutHook s.draws (s.clk + 6)
      hostLog := .hook (s.clk + 6) :: s.hostLog
      draws := s.draws + 1 }

/-- RTI after BRK, IRQ or NMI restores SP and all six flags, and resumes at `pc0 + 2` after BRK and at the interrupted
instruction after an interrupt (rule R507). -/
def Obligations.EntryThenReturn : Prop :=
  ∀ s : State, s.params.wf = true → s.halted = false →
    (∃ t u, exec .brk s = .next t ∧ exec .rti t = .next u ∧ u.pc = pcAfter s 2 ∧ u.sp = s.sp ∧ u.p = s.p) ∧
      (∃ t u, hostEvent .nmi s = .next t ∧ exec .rti t = .next u ∧ u.pc = s.pc ∧ u.sp = s.sp ∧ u.p = s.p) ∧
      (s.p.i = false →
        ∃ t u, hostEvent .irq s = .next t ∧ exec .rti t = .next u ∧ u.pc = s.pc ∧ u.sp = s.sp ∧ u.p = s.p)

/-- `Reset()`: PC from 0xFFFC and 0xFFFD, low byte first, I set, D clear on CMOS, not halted, and memory, `clk` and the
parameters as before. A vector byte in flat memory is the byte there and asks the host nothing; one in a handler block is the
host's answer, recorded as one read. It says nothing of the registers that are draws (rules R550, R551). And the host's
register accessors: each writes its whole register and nothing else, a write of P the six flags as PLP loads them (rule R516,
decision D34). The reset transition is the spec's decision D11, its draws decision D28; the clk that a handler is told during
reset is the model's choice (log entry 15), as is the record itself (log entry 10), and that the accessors act on a halted
core too (log entry 21). -/
def Obligations.HostResetAndRegisterWrites : Prop :=
  ∀ s : State,
    (∃ t, hostEvent .reset s = .next t ∧ t.p.i = true ∧ (s.params.variant = .cmos → t.p.d = false) ∧ t.halted = false ∧
        t.mem = s.mem ∧ t.clk = s.clk ∧ t.params = s.params ∧
        ∃ lo hi : Byte,
          let asked (w : Word) (v : Byte) : List HostCall :=
            if s.params.isFlat w = true then [] else [.read (w.toNat / s.params.blockSize) w s.clk v]
          t.pc = wordPlus hi lo 0 ∧ t.hostLog = asked 0xFFFD hi ++ asked 0xFFFC lo ++ s.hostLog ∧
            (s.params.isFlat 0xFFFC = true → lo = s.flat 0xFFFC) ∧ (s.params.isFlat 0xFFFD = true → hi = s.flat 0xFFFD)) ∧
      ∀ (v : Byte) (w : Word) (n : Int),
        hostEvent (.writeA v) s = .next { s with a := v } ∧ hostEvent (.writeX v) s = .next { s with x := v } ∧
          hostEvent (.writeY v) s = .next { s with y := v } ∧ hostEvent (.writeSp v) s = .next { s with sp := v } ∧
          hostEvent (.writePc w) s = .next { s with pc := w } ∧ hostEvent (.writeClk n) s = .next { s with clk := n } ∧
          hostEvent (.writeP v) s =
            .next { s with
              p :=
                { n := v.getLsbD 7
                  v := v.getLsbD 6
                  d := v.getLsbD 3
                  i := v.getLsbD 2
                  z := v.getLsbD 1
                  c := v.getLsbD 0 } }

/-! ### Undocumented and unused opcodes -/

/-- The six combined operations: the shifted, incremented or decremented byte is written back, and the accumulator operation
works on it (rules R400 to R406). -/
def Obligations.CombinedOperations : Prop :=
  ∀ (m : EaMode) (s : State), s.params.variant = .nmos →
    let v := (operandOf m s).1
    let sl := aslByte v
    let rl := rolByte v s.p.c
    let sr := lsrByte v
    let rr := rorByte v s.p.c
    let add := adcResult .nmos s.p.d s.a rr (decide (v.toNat % 2 = 1))
    let sub := sbcResult .nmos s.p.d s.a (incByte v) s.p.c
    RmwRuns (.slo m) m s sl (s.a ||| sl) (nzc s.p (s.a ||| sl) (128 ≤ v.toNat)) ∧
      RmwRuns (.rla m) m s rl (s.a &&& rl) (nzc s.p (s.a &&& rl) (128 ≤ v.toNat)) ∧
      RmwRuns (.sre m) m s sr (s.a ^^^ sr) (nzc s.p (s.a ^^^ sr) (v.toNat % 2 = 1)) ∧
      RmwRuns (.rra m) m s rr add.res (arith s.p add) ∧
      RmwRuns (.dcp m) m s (decByte v) s.a (compared s.p s.a (decByte v)) ∧
      RmwRuns (.isb m) m s (incByte v) sub.res (arith s.p sub)

/-- LXA, ANC (both bytes), ALR, XAA and AXS, with the open constants of LXA and XAA as parameters (rules R409 to R411,
R413, R414). The two constants are the spec's decision D17. That XAA leaves X is the model's choice (log entry
16): rule R20 lists XAA as a writer of X, and rule R413 writes A alone. -/
def Obligations.ImmediateCombinations : Prop :=
  ∀ (b : Byte) (s : State),
    let l := (s.a ||| s.params.lxaMagic) &&& b
    let n := s.a &&& b
    let k := (s.a ||| s.params.xaaMagic) &&& s.x &&& b
    let d : Byte := BitVec.ofNat 8 (((s.a &&& s.x).toNat + 256 - b.toNat) % 256)
    exec (.lxa b) s = .next (afterImm s l l (nz s.p l)) ∧
      exec (.anc b) s = .next (afterImm s n s.x (nzc s.p n (128 ≤ n.toNat))) ∧
      exec (.anc2b b) s = .next (afterImm s n s.x (nzc s.p n (128 ≤ n.toNat))) ∧
      exec (.alr b) s = .next (afterImm s (lsrByte n) s.x (nzc s.p (lsrByte n) (n.toNat % 2 = 1))) ∧
      exec (.xaa b) s = .next (afterImm s k s.x (nz s.p k)) ∧
      exec (.axs b) s = .next (afterImm s s.a d (nzc s.p d (b.toNat ≤ (s.a &&& s.x).toNat)))

/-- ARR in both modes, with the decimal path's digit corrections (rule R412, decision D19). -/
def Obligations.ArrInstruction : Prop :=
  ∀ (b : Byte) (s : State),
    let t := s.a &&& b
    let r := rorByte t s.p.c
    let low := t.toNat % 16 + t.toNat % 2 > 0x05
    let high := t.toNat / 16 * 16 + t.toNat / 16 % 2 * 16 > 0x50
    let r1 : Nat := if low then r.toNat / 16 * 16 + (r.toNat + 6) % 16 else r.toNat
    let r2 : Nat := if high then (r1 + 0x60) % 256 else r1
    exec (.arr b) s =
      .next (if s.p.d = false then
          afterImm s r s.x { nz s.p r with c := r.getLsbD 6, v := r.getLsbD 6 != r.getLsbD 5 }
        else
          afterImm s (BitVec.ofNat 8 r2) s.x
            { s.p with n := s.p.c, z := decide (r.toNat = 0), v := (t ^^^ r).getLsbD 6, c := decide high })

/-- AHX, TAS, SHY and SHX store a register value AND the base's high byte plus one; on a page cross, where
`SH_PAGE_CROSS_CORRUPTS` holds, the stored value replaces the address's high byte (rules R416 to R420). The store on a
page cross is the spec's decision D18. -/
def Obligations.HighByteStores : Prop :=
  ∀ (m : EaMode) (w : Word) (s : State),
    let high (e : Ea) : Byte := BitVec.ofNat 8 ((e.base.toNat / 256 + 1) % 256)
    let addr (e : Ea) (v : Byte) : Word :=
      if e.cross = true ∧ s.params.shPageCrossCorrupts = true then wordPlus v (loByte e.ea) 0 else e.ea
    let e := m.resolve s
    let ey := (EaMode.absY w).resolve s
    let ex := (EaMode.absX w).resolve s
    let ahx := s.a &&& s.x &&& high e
    let tas := s.a &&& s.x &&& high ey
    StoreRuns (.ahx m) s s.sp (addr e ahx) ahx (lengthOf m.operands) m.storeCycles ∧
      StoreRuns (.tas w) s (s.a &&& s.x) (addr ey tas) tas 3 5 ∧
      StoreRuns (.shy w) s s.sp (addr ex (s.y &&& high ex)) (s.y &&& high ex) 3 5 ∧
      StoreRuns (.shx w) s s.sp (addr ey (s.x &&& high ey)) (s.x &&& high ey) 3 5

/-- NOP, the undocumented NMOS NOPs and the CMOS bad opcodes change PC and `clk` and nothing else: no data access, no
register and no flag. So does JAM, 2 bytes and 2 cycles, unless `NMOS_JAM_HALTS`: then the machine halts with PC at the
JAM byte (rules R74, R367, R421, R422, R460 to R466). That nothing is read is the spec's decision D10, the halt its
decision D15. -/
def Obligations.IdleInstructions : Prop :=
  ∀ (op b : Byte) (f : NopForm) (g : BadForm) (s : State),
    let idle (len cycles : Nat) : Out := .next { s with pc := pcAfter s len, clk := s.clk + cycles }
    exec .nop s = idle 1 2 ∧
      exec (.nopUndoc op f) s =
        (match f with
        | .implied => idle 1 2
        | .imm _ => idle 2 2
        | .zp _ => idle 2 3
        | .zpX _ => idle 2 4
        | .abs _ => idle 3 4
        | .absX w => idle 3 (if w.toNat / 256 = (w.toNat + s.x.toNat) % 65536 / 256 then 4 else 5)) ∧
      exec (.nopBad op g) s =
        (match g with
        | .one => idle 1 1
        | .two _ => idle 2 (if op.toNat % 16 = 2 then 2 else if op.toNat = 0x44 then 3 else 4)
        | .three _ => idle 3 (if op.toNat = 0x5C then 7 else 4)) ∧
      exec (.jam op b) s =
        if s.params.nmosJamHalts = true then .next { s with halted := true, clk := s.clk + 2 } else idle 2 2
end

