-- ==== Sys2Proof/Laws/Memory.lean ====
section
/-! SUPPORT. The laws of flat memory: a read gives the value last written there, a write leaves every other address alone,
and every operation keeps the canonical form. -/

namespace Sys2Proof.Machine

theorem Memory.read_erase_same (m : Memory) (a : Nat) : Memory.read (Memory.erase m a) a = Config.launchByte := by
  induction m with
  | nil => rfl
  | cons e rest ih =>
    obtain ⟨k, v⟩ := e
    by_cases hk : k = a
    · simp [Memory.erase, hk, ih]
    · simp [Memory.erase, Memory.read, hk, ih]

theorem Memory.read_erase_other (m : Memory) {a b : Nat} (hab : b ≠ a) :
    Memory.read (Memory.erase m a) b = Memory.read m b := by
  induction m with
  | nil => rfl
  | cons e rest ih =>
    obtain ⟨k, v⟩ := e
    by_cases hk : k = a
    · subst hk
      simp [Memory.erase, Memory.read, ih, Ne.symm hab]
    · simp [Memory.erase, Memory.read, hk, ih]

theorem Memory.read_insert_same (m : Memory) (a : Nat) (v : Byte) : Memory.read (Memory.insert m a v) a = v := by
  induction m with
  | nil => simp [Memory.insert, Memory.read]
  | cons e rest ih =>
    obtain ⟨k, w⟩ := e
    unfold Memory.insert
    split
    · simp [Memory.read]
    · split
      · simp [Memory.read]
      · rename_i h
        simp [Memory.read, ih, Ne.symm h]

theorem Memory.read_insert_other (m : Memory) {a b : Nat} (v : Byte) (hab : b ≠ a) :
    Memory.read (Memory.insert m a v) b = Memory.read m b := by
  induction m with
  | nil => simp [Memory.insert, Memory.read, Ne.symm hab]
  | cons e rest ih =>
    obtain ⟨k, w⟩ := e
    unfold Memory.insert
    split
    · simp [Memory.read, Ne.symm hab]
    · split
      · rename_i h
        subst h
        simp [Memory.read, Ne.symm hab]
      · simp [Memory.read, ih]

/-- A read after a write to the same address gives the value written. -/
@[simp] theorem Memory.read_write_same (m : Memory) (a : Nat) (v : Byte) : Memory.read (Memory.write m a v) a = v := by
  unfold Memory.write
  split
  · rename_i h
    rw [Memory.read_erase_same, h]
  · exact Memory.read_insert_same m a v

/-- A write leaves every other address alone. -/
theorem Memory.read_write_other (m : Memory) {a b : Nat} (v : Byte) (hab : b ≠ a) :
    Memory.read (Memory.write m a v) b = Memory.read m b := by
  unfold Memory.write
  split
  · exact Memory.read_erase_other m hab
  · exact Memory.read_insert_other m v hab

theorem Memory.risesFrom_mono (m : Memory) {low low' : Nat} (h : low' ≤ low) (hm : Memory.risesFrom m low = true) :
    Memory.risesFrom m low' = true := by
  cases m with
  | nil => rfl
  | cons e rest =>
    obtain ⟨k, v⟩ := e
    simp only [Memory.risesFrom, Bool.and_eq_true, decide_eq_true_eq] at hm ⊢
    exact ⟨⟨⟨by omega, hm.1.1.2⟩, hm.1.2⟩, hm.2⟩

theorem Memory.risesFrom_erase (m : Memory) (a low : Nat) (hm : Memory.risesFrom m low = true) :
    Memory.risesFrom (Memory.erase m a) low = true := by
  induction m generalizing low with
  | nil => rfl
  | cons e rest ih =>
    obtain ⟨k, v⟩ := e
    simp only [Memory.risesFrom, Bool.and_eq_true, decide_eq_true_eq] at hm
    unfold Memory.erase
    split
    · exact Memory.risesFrom_mono _ (by omega) (ih (k + 1) hm.2)
    · simp only [Memory.risesFrom, Bool.and_eq_true, decide_eq_true_eq]
      exact ⟨hm.1, ih (k + 1) hm.2⟩

theorem Memory.risesFrom_insert (m : Memory) {a low : Nat} {v : Byte} (ha : a < 65536) (hv : v ≠ Config.launchByte)
    (hl : low ≤ a) (hm : Memory.risesFrom m low = true) : Memory.risesFrom (Memory.insert m a v) low = true := by
  induction m generalizing low with
  | nil => simp [Memory.insert, Memory.risesFrom, ha, hv, hl]
  | cons e rest ih =>
    obtain ⟨k, w⟩ := e
    simp only [Memory.risesFrom, Bool.and_eq_true, decide_eq_true_eq] at hm
    unfold Memory.insert
    split
    · rename_i hk
      simp only [Memory.risesFrom, Bool.and_eq_true, decide_eq_true_eq]
      exact ⟨⟨⟨hl, ha⟩, by simpa using hv⟩, ⟨⟨by omega, hm.1.1.2⟩, hm.1.2⟩, hm.2⟩
    · split
      · rename_i hk
        subst hk
        simp only [Memory.risesFrom, Bool.and_eq_true, decide_eq_true_eq]
        exact ⟨⟨⟨hl, ha⟩, by simpa using hv⟩, hm.2⟩
      · simp only [Memory.risesFrom, Bool.and_eq_true, decide_eq_true_eq]
        exact ⟨hm.1, ih (by omega) hm.2⟩

/-- Every store to an address of the space keeps the canonical form. -/
theorem Memory.write_keeps_wf (m : Memory) {a : Nat} (ha : a < 65536) (v : Byte) (hm : Memory.wf m = true) :
    Memory.wf (Memory.write m a v) = true := by
  unfold Memory.write
  split
  · exact Memory.risesFrom_erase m a 0 hm
  · rename_i hv
    exact Memory.risesFrom_insert m ha hv (Nat.zero_le a) hm

end Sys2Proof.Machine
end

