-- ==== Sys2Proof/Laws/State.lean ====
section
/-! SUPPORT. One lemma per field per update of State, so that no later proof unfolds a record update. -/

namespace Sys2Proof.Machine

/-! ### `setA` -/

@[simp] theorem State.setA_params (s : State) (v : Byte) : (s.setA v).params = s.params := rfl
@[simp] theorem State.setA_pc (s : State) (v : Byte) : (s.setA v).pc = s.pc := rfl
@[simp] theorem State.setA_a (s : State) (v : Byte) : (s.setA v).a = v := rfl
@[simp] theorem State.setA_x (s : State) (v : Byte) : (s.setA v).x = s.x := rfl
@[simp] theorem State.setA_y (s : State) (v : Byte) : (s.setA v).y = s.y := rfl
@[simp] theorem State.setA_sp (s : State) (v : Byte) : (s.setA v).sp = s.sp := rfl
@[simp] theorem State.setA_p (s : State) (v : Byte) : (s.setA v).p = s.p := rfl
@[simp] theorem State.setA_clk (s : State) (v : Byte) : (s.setA v).clk = s.clk := rfl
@[simp] theorem State.setA_halted (s : State) (v : Byte) : (s.setA v).halted = s.halted := rfl
@[simp] theorem State.setA_mem (s : State) (v : Byte) : (s.setA v).mem = s.mem := rfl
@[simp] theorem State.setA_hostLog (s : State) (v : Byte) : (s.setA v).hostLog = s.hostLog := rfl
@[simp] theorem State.setA_draws (s : State) (v : Byte) : (s.setA v).draws = s.draws := rfl

/-! ### `setX` -/

@[simp] theorem State.setX_params (s : State) (v : Byte) : (s.setX v).params = s.params := rfl
@[simp] theorem State.setX_pc (s : State) (v : Byte) : (s.setX v).pc = s.pc := rfl
@[simp] theorem State.setX_a (s : State) (v : Byte) : (s.setX v).a = s.a := rfl
@[simp] theorem State.setX_x (s : State) (v : Byte) : (s.setX v).x = v := rfl
@[simp] theorem State.setX_y (s : State) (v : Byte) : (s.setX v).y = s.y := rfl
@[simp] theorem State.setX_sp (s : State) (v : Byte) : (s.setX v).sp = s.sp := rfl
@[simp] theorem State.setX_p (s : State) (v : Byte) : (s.setX v).p = s.p := rfl
@[simp] theorem State.setX_clk (s : State) (v : Byte) : (s.setX v).clk = s.clk := rfl
@[simp] theorem State.setX_halted (s : State) (v : Byte) : (s.setX v).halted = s.halted := rfl
@[simp] theorem State.setX_mem (s : State) (v : Byte) : (s.setX v).mem = s.mem := rfl
@[simp] theorem State.setX_hostLog (s : State) (v : Byte) : (s.setX v).hostLog = s.hostLog := rfl
@[simp] theorem State.setX_draws (s : State) (v : Byte) : (s.setX v).draws = s.draws := rfl

/-! ### `setY` -/

@[simp] theorem State.setY_params (s : State) (v : Byte) : (s.setY v).params = s.params := rfl
@[simp] theorem State.setY_pc (s : State) (v : Byte) : (s.setY v).pc = s.pc := rfl
@[simp] theorem State.setY_a (s : State) (v : Byte) : (s.setY v).a = s.a := rfl
@[simp] theorem State.setY_x (s : State) (v : Byte) : (s.setY v).x = s.x := rfl
@[simp] theorem State.setY_y (s : State) (v : Byte) : (s.setY v).y = v := rfl
@[simp] theorem State.setY_sp (s : State) (v : Byte) : (s.setY v).sp = s.sp := rfl
@[simp] theorem State.setY_p (s : State) (v : Byte) : (s.setY v).p = s.p := rfl
@[simp] theorem State.setY_clk (s : State) (v : Byte) : (s.setY v).clk = s.clk := rfl
@[simp] theorem State.setY_halted (s : State) (v : Byte) : (s.setY v).halted = s.halted := rfl
@[simp] theorem State.setY_mem (s : State) (v : Byte) : (s.setY v).mem = s.mem := rfl
@[simp] theorem State.setY_hostLog (s : State) (v : Byte) : (s.setY v).hostLog = s.hostLog := rfl
@[simp] theorem State.setY_draws (s : State) (v : Byte) : (s.setY v).draws = s.draws := rfl

/-! ### `setSp` -/

@[simp] theorem State.setSp_params (s : State) (v : Byte) : (s.setSp v).params = s.params := rfl
@[simp] theorem State.setSp_pc (s : State) (v : Byte) : (s.setSp v).pc = s.pc := rfl
@[simp] theorem State.setSp_a (s : State) (v : Byte) : (s.setSp v).a = s.a := rfl
@[simp] theorem State.setSp_x (s : State) (v : Byte) : (s.setSp v).x = s.x := rfl
@[simp] theorem State.setSp_y (s : State) (v : Byte) : (s.setSp v).y = s.y := rfl
@[simp] theorem State.setSp_sp (s : State) (v : Byte) : (s.setSp v).sp = v := rfl
@[simp] theorem State.setSp_p (s : State) (v : Byte) : (s.setSp v).p = s.p := rfl
@[simp] theorem State.setSp_clk (s : State) (v : Byte) : (s.setSp v).clk = s.clk := rfl
@[simp] theorem State.setSp_halted (s : State) (v : Byte) : (s.setSp v).halted = s.halted := rfl
@[simp] theorem State.setSp_mem (s : State) (v : Byte) : (s.setSp v).mem = s.mem := rfl
@[simp] theorem State.setSp_hostLog (s : State) (v : Byte) : (s.setSp v).hostLog = s.hostLog := rfl
@[simp] theorem State.setSp_draws (s : State) (v : Byte) : (s.setSp v).draws = s.draws := rfl

/-! ### `setPc` -/

@[simp] theorem State.setPc_params (s : State) (w : Word) : (s.setPc w).params = s.params := rfl
@[simp] theorem State.setPc_pc (s : State) (w : Word) : (s.setPc w).pc = w := rfl
@[simp] theorem State.setPc_a (s : State) (w : Word) : (s.setPc w).a = s.a := rfl
@[simp] theorem State.setPc_x (s : State) (w : Word) : (s.setPc w).x = s.x := rfl
@[simp] theorem State.setPc_y (s : State) (w : Word) : (s.setPc w).y = s.y := rfl
@[simp] theorem State.setPc_sp (s : State) (w : Word) : (s.setPc w).sp = s.sp := rfl
@[simp] theorem State.setPc_p (s : State) (w : Word) : (s.setPc w).p = s.p := rfl
@[simp] theorem State.setPc_clk (s : State) (w : Word) : (s.setPc w).clk = s.clk := rfl
@[simp] theorem State.setPc_halted (s : State) (w : Word) : (s.setPc w).halted = s.halted := rfl
@[simp] theorem State.setPc_mem (s : State) (w : Word) : (s.setPc w).mem = s.mem := rfl
@[simp] theorem State.setPc_hostLog (s : State) (w : Word) : (s.setPc w).hostLog = s.hostLog := rfl
@[simp] theorem State.setPc_draws (s : State) (w : Word) : (s.setPc w).draws = s.draws := rfl

/-! ### `setP` -/

@[simp] theorem State.setP_params (s : State) (q : Flags) : (s.setP q).params = s.params := rfl
@[simp] theorem State.setP_pc (s : State) (q : Flags) : (s.setP q).pc = s.pc := rfl
@[simp] theorem State.setP_a (s : State) (q : Flags) : (s.setP q).a = s.a := rfl
@[simp] theorem State.setP_x (s : State) (q : Flags) : (s.setP q).x = s.x := rfl
@[simp] theorem State.setP_y (s : State) (q : Flags) : (s.setP q).y = s.y := rfl
@[simp] theorem State.setP_sp (s : State) (q : Flags) : (s.setP q).sp = s.sp := rfl
@[simp] theorem State.setP_p (s : State) (q : Flags) : (s.setP q).p = q := rfl
@[simp] theorem State.setP_clk (s : State) (q : Flags) : (s.setP q).clk = s.clk := rfl
@[simp] theorem State.setP_halted (s : State) (q : Flags) : (s.setP q).halted = s.halted := rfl
@[simp] theorem State.setP_mem (s : State) (q : Flags) : (s.setP q).mem = s.mem := rfl
@[simp] theorem State.setP_hostLog (s : State) (q : Flags) : (s.setP q).hostLog = s.hostLog := rfl
@[simp] theorem State.setP_draws (s : State) (q : Flags) : (s.setP q).draws = s.draws := rfl

/-! ### `setNZ` -/

@[simp] theorem State.setNZ_params (s : State) (v : Byte) : (s.setNZ v).params = s.params := rfl
@[simp] theorem State.setNZ_pc (s : State) (v : Byte) : (s.setNZ v).pc = s.pc := rfl
@[simp] theorem State.setNZ_a (s : State) (v : Byte) : (s.setNZ v).a = s.a := rfl
@[simp] theorem State.setNZ_x (s : State) (v : Byte) : (s.setNZ v).x = s.x := rfl
@[simp] theorem State.setNZ_y (s : State) (v : Byte) : (s.setNZ v).y = s.y := rfl
@[simp] theorem State.setNZ_sp (s : State) (v : Byte) : (s.setNZ v).sp = s.sp := rfl
@[simp] theorem State.setNZ_p (s : State) (v : Byte) : (s.setNZ v).p = s.p.setNZ v := rfl
@[simp] theorem State.setNZ_clk (s : State) (v : Byte) : (s.setNZ v).clk = s.clk := rfl
@[simp] theorem State.setNZ_halted (s : State) (v : Byte) : (s.setNZ v).halted = s.halted := rfl
@[simp] theorem State.setNZ_mem (s : State) (v : Byte) : (s.setNZ v).mem = s.mem := rfl
@[simp] theorem State.setNZ_hostLog (s : State) (v : Byte) : (s.setNZ v).hostLog = s.hostLog := rfl
@[simp] theorem State.setNZ_draws (s : State) (v : Byte) : (s.setNZ v).draws = s.draws := rfl

/-! ### `advance` -/

@[simp] theorem State.advance_params (s : State) (n : Nat) : (s.advance n).params = s.params := rfl
@[simp] theorem State.advance_pc (s : State) (n : Nat) : (s.advance n).pc = s.pc + BitVec.ofNat 16 n := rfl
@[simp] theorem State.advance_a (s : State) (n : Nat) : (s.advance n).a = s.a := rfl
@[simp] theorem State.advance_x (s : State) (n : Nat) : (s.advance n).x = s.x := rfl
@[simp] theorem State.advance_y (s : State) (n : Nat) : (s.advance n).y = s.y := rfl
@[simp] theorem State.advance_sp (s : State) (n : Nat) : (s.advance n).sp = s.sp := rfl
@[simp] theorem State.advance_p (s : State) (n : Nat) : (s.advance n).p = s.p := rfl
@[simp] theorem State.advance_clk (s : State) (n : Nat) : (s.advance n).clk = s.clk := rfl
@[simp] theorem State.advance_halted (s : State) (n : Nat) : (s.advance n).halted = s.halted := rfl
@[simp] theorem State.advance_mem (s : State) (n : Nat) : (s.advance n).mem = s.mem := rfl
@[simp] theorem State.advance_hostLog (s : State) (n : Nat) : (s.advance n).hostLog = s.hostLog := rfl
@[simp] theorem State.advance_draws (s : State) (n : Nat) : (s.advance n).draws = s.draws := rfl

/-! ### `charge` -/

@[simp] theorem State.charge_params (s : State) (n : Nat) : (s.charge n).params = s.params := rfl
@[simp] theorem State.charge_pc (s : State) (n : Nat) : (s.charge n).pc = s.pc := rfl
@[simp] theorem State.charge_a (s : State) (n : Nat) : (s.charge n).a = s.a := rfl
@[simp] theorem State.charge_x (s : State) (n : Nat) : (s.charge n).x = s.x := rfl
@[simp] theorem State.charge_y (s : State) (n : Nat) : (s.charge n).y = s.y := rfl
@[simp] theorem State.charge_sp (s : State) (n : Nat) : (s.charge n).sp = s.sp := rfl
@[simp] theorem State.charge_p (s : State) (n : Nat) : (s.charge n).p = s.p := rfl
@[simp] theorem State.charge_clk (s : State) (n : Nat) : (s.charge n).clk = s.clk + n := rfl
@[simp] theorem State.charge_halted (s : State) (n : Nat) : (s.charge n).halted = s.halted := rfl
@[simp] theorem State.charge_mem (s : State) (n : Nat) : (s.charge n).mem = s.mem := rfl
@[simp] theorem State.charge_hostLog (s : State) (n : Nat) : (s.charge n).hostLog = s.hostLog := rfl
@[simp] theorem State.charge_draws (s : State) (n : Nat) : (s.charge n).draws = s.draws := rfl

/-! ### `setHalted` -/

@[simp] theorem State.setHalted_params (s : State) (h : Bool) : (s.setHalted h).params = s.params := rfl
@[simp] theorem State.setHalted_pc (s : State) (h : Bool) : (s.setHalted h).pc = s.pc := rfl
@[simp] theorem State.setHalted_a (s : State) (h : Bool) : (s.setHalted h).a = s.a := rfl
@[simp] theorem State.setHalted_x (s : State) (h : Bool) : (s.setHalted h).x = s.x := rfl
@[simp] theorem State.setHalted_y (s : State) (h : Bool) : (s.setHalted h).y = s.y := rfl
@[simp] theorem State.setHalted_sp (s : State) (h : Bool) : (s.setHalted h).sp = s.sp := rfl
@[simp] theorem State.setHalted_p (s : State) (h : Bool) : (s.setHalted h).p = s.p := rfl
@[simp] theorem State.setHalted_clk (s : State) (h : Bool) : (s.setHalted h).clk = s.clk := rfl
@[simp] theorem State.setHalted_halted (s : State) (h : Bool) : (s.setHalted h).halted = h := rfl
@[simp] theorem State.setHalted_mem (s : State) (h : Bool) : (s.setHalted h).mem = s.mem := rfl
@[simp] theorem State.setHalted_hostLog (s : State) (h : Bool) : (s.setHalted h).hostLog = s.hostLog := rfl
@[simp] theorem State.setHalted_draws (s : State) (h : Bool) : (s.setHalted h).draws = s.draws := rfl

/-! ### `setFlat` -/

@[simp] theorem State.setFlat_params (s : State) (w : Word) (v : Byte) : (s.setFlat w v).params = s.params := rfl
@[simp] theorem State.setFlat_pc (s : State) (w : Word) (v : Byte) : (s.setFlat w v).pc = s.pc := rfl
@[simp] theorem State.setFlat_a (s : State) (w : Word) (v : Byte) : (s.setFlat w v).a = s.a := rfl
@[simp] theorem State.setFlat_x (s : State) (w : Word) (v : Byte) : (s.setFlat w v).x = s.x := rfl
@[simp] theorem State.setFlat_y (s : State) (w : Word) (v : Byte) : (s.setFlat w v).y = s.y := rfl
@[simp] theorem State.setFlat_sp (s : State) (w : Word) (v : Byte) : (s.setFlat w v).sp = s.sp := rfl
@[simp] theorem State.setFlat_p (s : State) (w : Word) (v : Byte) : (s.setFlat w v).p = s.p := rfl
@[simp] theorem State.setFlat_clk (s : State) (w : Word) (v : Byte) : (s.setFlat w v).clk = s.clk := rfl
@[simp] theorem State.setFlat_halted (s : State) (w : Word) (v : Byte) : (s.setFlat w v).halted = s.halted := rfl
@[simp] theorem State.setFlat_mem (s : State) (w : Word) (v : Byte) : (s.setFlat w v).mem = Memory.write s.mem w.toNat v := rfl
@[simp] theorem State.setFlat_hostLog (s : State) (w : Word) (v : Byte) : (s.setFlat w v).hostLog = s.hostLog := rfl
@[simp] theorem State.setFlat_draws (s : State) (w : Word) (v : Byte) : (s.setFlat w v).draws = s.draws := rfl

/-! ### `log` -/

@[simp] theorem State.log_params (s : State) (h : HostCall) : (s.log h).params = s.params := rfl
@[simp] theorem State.log_pc (s : State) (h : HostCall) : (s.log h).pc = s.pc := rfl
@[simp] theorem State.log_a (s : State) (h : HostCall) : (s.log h).a = s.a := rfl
@[simp] theorem State.log_x (s : State) (h : HostCall) : (s.log h).x = s.x := rfl
@[simp] theorem State.log_y (s : State) (h : HostCall) : (s.log h).y = s.y := rfl
@[simp] theorem State.log_sp (s : State) (h : HostCall) : (s.log h).sp = s.sp := rfl
@[simp] theorem State.log_p (s : State) (h : HostCall) : (s.log h).p = s.p := rfl
@[simp] theorem State.log_clk (s : State) (h : HostCall) : (s.log h).clk = s.clk := rfl
@[simp] theorem State.log_halted (s : State) (h : HostCall) : (s.log h).halted = s.halted := rfl
@[simp] theorem State.log_mem (s : State) (h : HostCall) : (s.log h).mem = s.mem := rfl
@[simp] theorem State.log_hostLog (s : State) (h : HostCall) : (s.log h).hostLog = h :: s.hostLog := rfl
@[simp] theorem State.log_draws (s : State) (h : HostCall) : (s.log h).draws = s.draws := rfl

/-! ### `draw` -/

@[simp] theorem State.draw_params (s : State) : (s.draw).params = s.params := rfl
@[simp] theorem State.draw_pc (s : State) : (s.draw).pc = s.pc := rfl
@[simp] theorem State.draw_a (s : State) : (s.draw).a = s.a := rfl
@[simp] theorem State.draw_x (s : State) : (s.draw).x = s.x := rfl
@[simp] theorem State.draw_y (s : State) : (s.draw).y = s.y := rfl
@[simp] theorem State.draw_sp (s : State) : (s.draw).sp = s.sp := rfl
@[simp] theorem State.draw_p (s : State) : (s.draw).p = s.p := rfl
@[simp] theorem State.draw_clk (s : State) : (s.draw).clk = s.clk := rfl
@[simp] theorem State.draw_halted (s : State) : (s.draw).halted = s.halted := rfl
@[simp] theorem State.draw_mem (s : State) : (s.draw).mem = s.mem := rfl
@[simp] theorem State.draw_hostLog (s : State) : (s.draw).hostLog = s.hostLog := rfl
@[simp] theorem State.draw_draws (s : State) : (s.draw).draws = s.draws + 1 := rfl

/-! ### `callHook` -/

@[simp] theorem State.callHook_params (s : State) : (s.callHook).params = s.params := rfl
@[simp] theorem State.callHook_pc (s : State) : (s.callHook).pc = s.pc := rfl
@[simp] theorem State.callHook_a (s : State) : (s.callHook).a = s.a := rfl
@[simp] theorem State.callHook_x (s : State) : (s.callHook).x = s.x := rfl
@[simp] theorem State.callHook_y (s : State) : (s.callHook).y = s.y := rfl
@[simp] theorem State.callHook_sp (s : State) : (s.callHook).sp = s.sp := rfl
@[simp] theorem State.callHook_p (s : State) : (s.callHook).p = s.p := rfl
@[simp] theorem State.callHook_clk (s : State) : (s.callHook).clk = Config.breakoutHook s.draws s.clk := rfl
@[simp] theorem State.callHook_halted (s : State) : (s.callHook).halted = s.halted := rfl
@[simp] theorem State.callHook_mem (s : State) : (s.callHook).mem = s.mem := rfl
@[simp] theorem State.callHook_hostLog (s : State) : (s.callHook).hostLog = .hook s.clk :: s.hostLog := rfl
@[simp] theorem State.callHook_draws (s : State) : (s.callHook).draws = s.draws + 1 := rfl

/-! ### `setArith` -/

@[simp] theorem State.setArith_params (s : State) (r : FlagResult) : (s.setArith r).params = s.params := rfl
@[simp] theorem State.setArith_pc (s : State) (r : FlagResult) : (s.setArith r).pc = s.pc := rfl
@[simp] theorem State.setArith_a (s : State) (r : FlagResult) : (s.setArith r).a = r.res := rfl
@[simp] theorem State.setArith_x (s : State) (r : FlagResult) : (s.setArith r).x = s.x := rfl
@[simp] theorem State.setArith_y (s : State) (r : FlagResult) : (s.setArith r).y = s.y := rfl
@[simp] theorem State.setArith_sp (s : State) (r : FlagResult) : (s.setArith r).sp = s.sp := rfl
@[simp] theorem State.setArith_p (s : State) (r : FlagResult) : (s.setArith r).p = s.p.setArith r := rfl
@[simp] theorem State.setArith_clk (s : State) (r : FlagResult) : (s.setArith r).clk = s.clk := rfl
@[simp] theorem State.setArith_halted (s : State) (r : FlagResult) : (s.setArith r).halted = s.halted := rfl
@[simp] theorem State.setArith_mem (s : State) (r : FlagResult) : (s.setArith r).mem = s.mem := rfl
@[simp] theorem State.setArith_hostLog (s : State) (r : FlagResult) : (s.setArith r).hostLog = s.hostLog := rfl
@[simp] theorem State.setArith_draws (s : State) (r : FlagResult) : (s.setArith r).draws = s.draws := rfl

/-! ### Flags -/

@[simp] theorem Flags.setNZ_n (p : Flags) (v : Byte) : (p.setNZ v).n = v.getLsbD 7 := rfl
@[simp] theorem Flags.setNZ_v (p : Flags) (v : Byte) : (p.setNZ v).v = p.v := rfl
@[simp] theorem Flags.setNZ_d (p : Flags) (v : Byte) : (p.setNZ v).d = p.d := rfl
@[simp] theorem Flags.setNZ_i (p : Flags) (v : Byte) : (p.setNZ v).i = p.i := rfl
@[simp] theorem Flags.setNZ_z (p : Flags) (v : Byte) : (p.setNZ v).z = (v == 0) := rfl
@[simp] theorem Flags.setNZ_c (p : Flags) (v : Byte) : (p.setNZ v).c = p.c := rfl
@[simp] theorem Flags.setArith_n (p : Flags) (r : FlagResult) : (p.setArith r).n = r.n := rfl
@[simp] theorem Flags.setArith_v (p : Flags) (r : FlagResult) : (p.setArith r).v = r.v := rfl
@[simp] theorem Flags.setArith_d (p : Flags) (r : FlagResult) : (p.setArith r).d = p.d := rfl
@[simp] theorem Flags.setArith_i (p : Flags) (r : FlagResult) : (p.setArith r).i = p.i := rfl
@[simp] theorem Flags.setArith_z (p : Flags) (r : FlagResult) : (p.setArith r).z = r.z := rfl
@[simp] theorem Flags.setArith_c (p : Flags) (r : FlagResult) : (p.setArith r).c = r.c := rfl
@[simp] theorem Flags.compare_n (p : Flags) (r m : Byte) : (p.compare r m).n = (r - m).getLsbD 7 := rfl
@[simp] theorem Flags.compare_v (p : Flags) (r m : Byte) : (p.compare r m).v = p.v := rfl
@[simp] theorem Flags.compare_d (p : Flags) (r m : Byte) : (p.compare r m).d = p.d := rfl
@[simp] theorem Flags.compare_i (p : Flags) (r m : Byte) : (p.compare r m).i = p.i := rfl
@[simp] theorem Flags.compare_z (p : Flags) (r m : Byte) : (p.compare r m).z = (r == m) := rfl
@[simp] theorem Flags.compare_c (p : Flags) (r m : Byte) : (p.compare r m).c = decide (m.toNat ≤ r.toNat) := rfl
@[simp] theorem Flags.setShift_n (p : Flags) (r : ShiftResult) : (p.setShift r).n = r.res.getLsbD 7 := rfl
@[simp] theorem Flags.setShift_v (p : Flags) (r : ShiftResult) : (p.setShift r).v = p.v := rfl
@[simp] theorem Flags.setShift_d (p : Flags) (r : ShiftResult) : (p.setShift r).d = p.d := rfl
@[simp] theorem Flags.setShift_i (p : Flags) (r : ShiftResult) : (p.setShift r).i = p.i := rfl
@[simp] theorem Flags.setShift_z (p : Flags) (r : ShiftResult) : (p.setShift r).z = (r.res == 0) := rfl
@[simp] theorem Flags.setShift_c (p : Flags) (r : ShiftResult) : (p.setShift r).c = r.c := rfl
@[simp] theorem Flags.bitTest_n (p : Flags) (a m : Byte) : (p.bitTest a m).n = m.getLsbD 7 := rfl
@[simp] theorem Flags.bitTest_v (p : Flags) (a m : Byte) : (p.bitTest a m).v = m.getLsbD 6 := rfl
@[simp] theorem Flags.bitTest_d (p : Flags) (a m : Byte) : (p.bitTest a m).d = p.d := rfl
@[simp] theorem Flags.bitTest_i (p : Flags) (a m : Byte) : (p.bitTest a m).i = p.i := rfl
@[simp] theorem Flags.bitTest_z (p : Flags) (a m : Byte) : (p.bitTest a m).z = (a &&& m == 0) := rfl
@[simp] theorem Flags.bitTest_c (p : Flags) (a m : Byte) : (p.bitTest a m).c = p.c := rfl
@[simp] theorem Flags.testZ_n (p : Flags) (a m : Byte) : (p.testZ a m).n = p.n := rfl
@[simp] theorem Flags.testZ_v (p : Flags) (a m : Byte) : (p.testZ a m).v = p.v := rfl
@[simp] theorem Flags.testZ_d (p : Flags) (a m : Byte) : (p.testZ a m).d = p.d := rfl
@[simp] theorem Flags.testZ_i (p : Flags) (a m : Byte) : (p.testZ a m).i = p.i := rfl
@[simp] theorem Flags.testZ_z (p : Flags) (a m : Byte) : (p.testZ a m).z = (a &&& m == 0) := rfl
@[simp] theorem Flags.testZ_c (p : Flags) (a m : Byte) : (p.testZ a m).c = p.c := rfl
@[simp] theorem Flags.enter_nmos_n (p : Flags) : (p.enter .nmos).n = p.n := rfl
@[simp] theorem Flags.enter_cmos_n (p : Flags) : (p.enter .cmos).n = p.n := rfl
@[simp] theorem Flags.enter_nmos_v (p : Flags) : (p.enter .nmos).v = p.v := rfl
@[simp] theorem Flags.enter_cmos_v (p : Flags) : (p.enter .cmos).v = p.v := rfl
@[simp] theorem Flags.enter_nmos_d (p : Flags) : (p.enter .nmos).d = p.d := rfl
@[simp] theorem Flags.enter_cmos_d (p : Flags) : (p.enter .cmos).d = false := rfl
@[simp] theorem Flags.enter_nmos_i (p : Flags) : (p.enter .nmos).i = true := rfl
@[simp] theorem Flags.enter_cmos_i (p : Flags) : (p.enter .cmos).i = true := rfl
@[simp] theorem Flags.enter_nmos_z (p : Flags) : (p.enter .nmos).z = p.z := rfl
@[simp] theorem Flags.enter_cmos_z (p : Flags) : (p.enter .cmos).z = p.z := rfl
@[simp] theorem Flags.enter_nmos_c (p : Flags) : (p.enter .nmos).c = p.c := rfl
@[simp] theorem Flags.enter_cmos_c (p : Flags) : (p.enter .cmos).c = p.c := rfl

end Sys2Proof.Machine
end

