-- ==== Sys2Proof/Laws/Ops.lean ====
section
/-! SUPPORT. What each shared operation leaves unchanged, one lemma per field, and that each keeps the canonical form of
memory: the specs that later proofs cite instead of unfolding the operation. -/

namespace Sys2Proof.Machine

/-! ### `MemRead` -/

@[simp] theorem memRead_params (w : Word) (s : State) : (memRead w s).2.params = s.params := by
  unfold memRead; split <;> rfl
@[simp] theorem memRead_pc (w : Word) (s : State) : (memRead w s).2.pc = s.pc := by
  unfold memRead; split <;> rfl
@[simp] theorem memRead_a (w : Word) (s : State) : (memRead w s).2.a = s.a := by
  unfold memRead; split <;> rfl
@[simp] theorem memRead_x (w : Word) (s : State) : (memRead w s).2.x = s.x := by
  unfold memRead; split <;> rfl
@[simp] theorem memRead_y (w : Word) (s : State) : (memRead w s).2.y = s.y := by
  unfold memRead; split <;> rfl
@[simp] theorem memRead_sp (w : Word) (s : State) : (memRead w s).2.sp = s.sp := by
  unfold memRead; split <;> rfl
@[simp] theorem memRead_p (w : Word) (s : State) : (memRead w s).2.p = s.p := by
  unfold memRead; split <;> rfl
@[simp] theorem memRead_clk (w : Word) (s : State) : (memRead w s).2.clk = s.clk := by
  unfold memRead; split <;> rfl
@[simp] theorem memRead_halted (w : Word) (s : State) : (memRead w s).2.halted = s.halted := by
  unfold memRead; split <;> rfl
@[simp] theorem memRead_mem (w : Word) (s : State) : (memRead w s).2.mem = s.mem := by
  unfold memRead; split <;> rfl

/-! ### `MemWrite` -/

@[simp] theorem memWrite_params (w : Word) (v : Byte) (s : State) : (memWrite w v s).params = s.params := by
  unfold memWrite; split <;> rfl
@[simp] theorem memWrite_pc (w : Word) (v : Byte) (s : State) : (memWrite w v s).pc = s.pc := by
  unfold memWrite; split <;> rfl
@[simp] theorem memWrite_a (w : Word) (v : Byte) (s : State) : (memWrite w v s).a = s.a := by
  unfold memWrite; split <;> rfl
@[simp] theorem memWrite_x (w : Word) (v : Byte) (s : State) : (memWrite w v s).x = s.x := by
  unfold memWrite; split <;> rfl
@[simp] theorem memWrite_y (w : Word) (v : Byte) (s : State) : (memWrite w v s).y = s.y := by
  unfold memWrite; split <;> rfl
@[simp] theorem memWrite_sp (w : Word) (v : Byte) (s : State) : (memWrite w v s).sp = s.sp := by
  unfold memWrite; split <;> rfl
@[simp] theorem memWrite_p (w : Word) (v : Byte) (s : State) : (memWrite w v s).p = s.p := by
  unfold memWrite; split <;> rfl
@[simp] theorem memWrite_clk (w : Word) (v : Byte) (s : State) : (memWrite w v s).clk = s.clk := by
  unfold memWrite; split <;> rfl
@[simp] theorem memWrite_halted (w : Word) (v : Byte) (s : State) : (memWrite w v s).halted = s.halted := by
  unfold memWrite; split <;> rfl
@[simp] theorem memWrite_draws (w : Word) (v : Byte) (s : State) : (memWrite w v s).draws = s.draws := by
  unfold memWrite; split <;> rfl

/-! ### `Read16` -/

@[simp] theorem read16_params (w : Word) (s : State) : (read16 w s).2.params = s.params := by
  simp [read16]
@[simp] theorem read16_pc (w : Word) (s : State) : (read16 w s).2.pc = s.pc := by
  simp [read16]
@[simp] theorem read16_a (w : Word) (s : State) : (read16 w s).2.a = s.a := by
  simp [read16]
@[simp] theorem read16_x (w : Word) (s : State) : (read16 w s).2.x = s.x := by
  simp [read16]
@[simp] theorem read16_y (w : Word) (s : State) : (read16 w s).2.y = s.y := by
  simp [read16]
@[simp] theorem read16_sp (w : Word) (s : State) : (read16 w s).2.sp = s.sp := by
  simp [read16]
@[simp] theorem read16_p (w : Word) (s : State) : (read16 w s).2.p = s.p := by
  simp [read16]
@[simp] theorem read16_clk (w : Word) (s : State) : (read16 w s).2.clk = s.clk := by
  simp [read16]
@[simp] theorem read16_halted (w : Word) (s : State) : (read16 w s).2.halted = s.halted := by
  simp [read16]
@[simp] theorem read16_mem (w : Word) (s : State) : (read16 w s).2.mem = s.mem := by
  simp [read16]

/-! ### `Read16PageWrapped` -/

@[simp] theorem read16PageWrapped_params (w : Word) (s : State) : (read16PageWrapped w s).2.params = s.params := by
  simp [read16PageWrapped]
@[simp] theorem read16PageWrapped_pc (w : Word) (s : State) : (read16PageWrapped w s).2.pc = s.pc := by
  simp [read16PageWrapped]
@[simp] theorem read16PageWrapped_a (w : Word) (s : State) : (read16PageWrapped w s).2.a = s.a := by
  simp [read16PageWrapped]
@[simp] theorem read16PageWrapped_x (w : Word) (s : State) : (read16PageWrapped w s).2.x = s.x := by
  simp [read16PageWrapped]
@[simp] theorem read16PageWrapped_y (w : Word) (s : State) : (read16PageWrapped w s).2.y = s.y := by
  simp [read16PageWrapped]
@[simp] theorem read16PageWrapped_sp (w : Word) (s : State) : (read16PageWrapped w s).2.sp = s.sp := by
  simp [read16PageWrapped]
@[simp] theorem read16PageWrapped_p (w : Word) (s : State) : (read16PageWrapped w s).2.p = s.p := by
  simp [read16PageWrapped]
@[simp] theorem read16PageWrapped_clk (w : Word) (s : State) : (read16PageWrapped w s).2.clk = s.clk := by
  simp [read16PageWrapped]
@[simp] theorem read16PageWrapped_halted (w : Word) (s : State) : (read16PageWrapped w s).2.halted = s.halted := by
  simp [read16PageWrapped]
@[simp] theorem read16PageWrapped_mem (w : Word) (s : State) : (read16PageWrapped w s).2.mem = s.mem := by
  simp [read16PageWrapped]

/-! ### `Push8` -/

@[simp] theorem push8_params (v : Byte) (s : State) : (push8 v s).params = s.params := by
  simp [push8]
@[simp] theorem push8_pc (v : Byte) (s : State) : (push8 v s).pc = s.pc := by
  simp [push8]
@[simp] theorem push8_a (v : Byte) (s : State) : (push8 v s).a = s.a := by
  simp [push8]
@[simp] theorem push8_x (v : Byte) (s : State) : (push8 v s).x = s.x := by
  simp [push8]
@[simp] theorem push8_y (v : Byte) (s : State) : (push8 v s).y = s.y := by
  simp [push8]
@[simp] theorem push8_sp (v : Byte) (s : State) : (push8 v s).sp = s.sp - 1 := by
  simp [push8]
@[simp] theorem push8_p (v : Byte) (s : State) : (push8 v s).p = s.p := by
  simp [push8]
@[simp] theorem push8_clk (v : Byte) (s : State) : (push8 v s).clk = s.clk := by
  simp [push8]
@[simp] theorem push8_halted (v : Byte) (s : State) : (push8 v s).halted = s.halted := by
  simp [push8]
@[simp] theorem push8_draws (v : Byte) (s : State) : (push8 v s).draws = s.draws := by
  simp [push8]

/-! ### `Pop8` -/

@[simp] theorem pop8_params (s : State) : (pop8 s).2.params = s.params := by
  simp [pop8]
@[simp] theorem pop8_pc (s : State) : (pop8 s).2.pc = s.pc := by
  simp [pop8]
@[simp] theorem pop8_a (s : State) : (pop8 s).2.a = s.a := by
  simp [pop8]
@[simp] theorem pop8_x (s : State) : (pop8 s).2.x = s.x := by
  simp [pop8]
@[simp] theorem pop8_y (s : State) : (pop8 s).2.y = s.y := by
  simp [pop8]
@[simp] theorem pop8_sp (s : State) : (pop8 s).2.sp = s.sp + 1 := by
  simp [pop8]
@[simp] theorem pop8_p (s : State) : (pop8 s).2.p = s.p := by
  simp [pop8]
@[simp] theorem pop8_clk (s : State) : (pop8 s).2.clk = s.clk := by
  simp [pop8]
@[simp] theorem pop8_halted (s : State) : (pop8 s).2.halted = s.halted := by
  simp [pop8]
@[simp] theorem pop8_mem (s : State) : (pop8 s).2.mem = s.mem := by
  simp [pop8]

/-! ### `Push16` -/

@[simp] theorem push16_params (w : Word) (s : State) : (push16 w s).params = s.params := by
  simp [push16]
@[simp] theorem push16_pc (w : Word) (s : State) : (push16 w s).pc = s.pc := by
  simp [push16]
@[simp] theorem push16_a (w : Word) (s : State) : (push16 w s).a = s.a := by
  simp [push16]
@[simp] theorem push16_x (w : Word) (s : State) : (push16 w s).x = s.x := by
  simp [push16]
@[simp] theorem push16_y (w : Word) (s : State) : (push16 w s).y = s.y := by
  simp [push16]
@[simp] theorem push16_sp (w : Word) (s : State) : (push16 w s).sp = s.sp - 1 - 1 := by
  simp [push16]
@[simp] theorem push16_p (w : Word) (s : State) : (push16 w s).p = s.p := by
  simp [push16]
@[simp] theorem push16_clk (w : Word) (s : State) : (push16 w s).clk = s.clk := by
  simp [push16]
@[simp] theorem push16_halted (w : Word) (s : State) : (push16 w s).halted = s.halted := by
  simp [push16]
@[simp] theorem push16_draws (w : Word) (s : State) : (push16 w s).draws = s.draws := by
  simp [push16]

/-! ### `Pop16` -/

@[simp] theorem pop16_params (s : State) : (pop16 s).2.params = s.params := by
  simp [pop16]
@[simp] theorem pop16_pc (s : State) : (pop16 s).2.pc = s.pc := by
  simp [pop16]
@[simp] theorem pop16_a (s : State) : (pop16 s).2.a = s.a := by
  simp [pop16]
@[simp] theorem pop16_x (s : State) : (pop16 s).2.x = s.x := by
  simp [pop16]
@[simp] theorem pop16_y (s : State) : (pop16 s).2.y = s.y := by
  simp [pop16]
@[simp] theorem pop16_sp (s : State) : (pop16 s).2.sp = s.sp + 1 + 1 := by
  simp [pop16]
@[simp] theorem pop16_p (s : State) : (pop16 s).2.p = s.p := by
  simp [pop16]
@[simp] theorem pop16_clk (s : State) : (pop16 s).2.clk = s.clk := by
  simp [pop16]
@[simp] theorem pop16_halted (s : State) : (pop16 s).2.halted = s.halted := by
  simp [pop16]
@[simp] theorem pop16_mem (s : State) : (pop16 s).2.mem = s.mem := by
  simp [pop16]

/-! ### Operand reads -/

@[simp] theorem EaMode_load_params (m : EaMode) (w : Word) (s : State) : (m.load w s).2.params = s.params := by
  unfold EaMode.load; split <;> simp
@[simp] theorem EaMode_load_pc (m : EaMode) (w : Word) (s : State) : (m.load w s).2.pc = s.pc := by
  unfold EaMode.load; split <;> simp
@[simp] theorem EaMode_load_a (m : EaMode) (w : Word) (s : State) : (m.load w s).2.a = s.a := by
  unfold EaMode.load; split <;> simp
@[simp] theorem EaMode_load_x (m : EaMode) (w : Word) (s : State) : (m.load w s).2.x = s.x := by
  unfold EaMode.load; split <;> simp
@[simp] theorem EaMode_load_y (m : EaMode) (w : Word) (s : State) : (m.load w s).2.y = s.y := by
  unfold EaMode.load; split <;> simp
@[simp] theorem EaMode_load_sp (m : EaMode) (w : Word) (s : State) : (m.load w s).2.sp = s.sp := by
  unfold EaMode.load; split <;> simp
@[simp] theorem EaMode_load_p (m : EaMode) (w : Word) (s : State) : (m.load w s).2.p = s.p := by
  unfold EaMode.load; split <;> simp
@[simp] theorem EaMode_load_clk (m : EaMode) (w : Word) (s : State) : (m.load w s).2.clk = s.clk := by
  unfold EaMode.load; split <;> simp
@[simp] theorem EaMode_load_halted (m : EaMode) (w : Word) (s : State) : (m.load w s).2.halted = s.halted := by
  unfold EaMode.load; split <;> simp
@[simp] theorem EaMode_load_mem (m : EaMode) (w : Word) (s : State) : (m.load w s).2.mem = s.mem := by
  unfold EaMode.load; split <;> simp

/-! ### Operands of the read kind -/

@[simp] theorem ReadOp_load_params (r : ReadOp) (s : State) : (r.load s).2.params = s.params := by
  cases r <;> simp [ReadOp.load]
@[simp] theorem ReadOp_load_pc (r : ReadOp) (s : State) : (r.load s).2.pc = s.pc := by
  cases r <;> simp [ReadOp.load]
@[simp] theorem ReadOp_load_a (r : ReadOp) (s : State) : (r.load s).2.a = s.a := by
  cases r <;> simp [ReadOp.load]
@[simp] theorem ReadOp_load_x (r : ReadOp) (s : State) : (r.load s).2.x = s.x := by
  cases r <;> simp [ReadOp.load]
@[simp] theorem ReadOp_load_y (r : ReadOp) (s : State) : (r.load s).2.y = s.y := by
  cases r <;> simp [ReadOp.load]
@[simp] theorem ReadOp_load_sp (r : ReadOp) (s : State) : (r.load s).2.sp = s.sp := by
  cases r <;> simp [ReadOp.load]
@[simp] theorem ReadOp_load_p (r : ReadOp) (s : State) : (r.load s).2.p = s.p := by
  cases r <;> simp [ReadOp.load]
@[simp] theorem ReadOp_load_clk (r : ReadOp) (s : State) : (r.load s).2.clk = s.clk := by
  cases r <;> simp [ReadOp.load]
@[simp] theorem ReadOp_load_halted (r : ReadOp) (s : State) : (r.load s).2.halted = s.halted := by
  cases r <;> simp [ReadOp.load]
@[simp] theorem ReadOp_load_mem (r : ReadOp) (s : State) : (r.load s).2.mem = s.mem := by
  cases r <;> simp [ReadOp.load]

/-! ### Pointer reads of JMP -/

@[simp] theorem jumpTarget_params (m : JmpMode) (s : State) : (jumpTarget m s).2.params = s.params := by
  cases m <;> simp only [jumpTarget] <;> (try split) <;> simp
@[simp] theorem jumpTarget_pc (m : JmpMode) (s : State) : (jumpTarget m s).2.pc = s.pc := by
  cases m <;> simp only [jumpTarget] <;> (try split) <;> simp
@[simp] theorem jumpTarget_a (m : JmpMode) (s : State) : (jumpTarget m s).2.a = s.a := by
  cases m <;> simp only [jumpTarget] <;> (try split) <;> simp
@[simp] theorem jumpTarget_x (m : JmpMode) (s : State) : (jumpTarget m s).2.x = s.x := by
  cases m <;> simp only [jumpTarget] <;> (try split) <;> simp
@[simp] theorem jumpTarget_y (m : JmpMode) (s : State) : (jumpTarget m s).2.y = s.y := by
  cases m <;> simp only [jumpTarget] <;> (try split) <;> simp
@[simp] theorem jumpTarget_sp (m : JmpMode) (s : State) : (jumpTarget m s).2.sp = s.sp := by
  cases m <;> simp only [jumpTarget] <;> (try split) <;> simp
@[simp] theorem jumpTarget_p (m : JmpMode) (s : State) : (jumpTarget m s).2.p = s.p := by
  cases m <;> simp only [jumpTarget] <;> (try split) <;> simp
@[simp] theorem jumpTarget_clk (m : JmpMode) (s : State) : (jumpTarget m s).2.clk = s.clk := by
  cases m <;> simp only [jumpTarget] <;> (try split) <;> simp
@[simp] theorem jumpTarget_halted (m : JmpMode) (s : State) : (jumpTarget m s).2.halted = s.halted := by
  cases m <;> simp only [jumpTarget] <;> (try split) <;> simp
@[simp] theorem jumpTarget_mem (m : JmpMode) (s : State) : (jumpTarget m s).2.mem = s.mem := by
  cases m <;> simp only [jumpTarget] <;> (try split) <;> simp

/-! ### Taking an exception -/

@[simp] theorem takeException_params (ret : Word) (brk : Bool) (vec : Word) (s : State) : (takeException ret brk vec s).params = s.params := by
  simp [takeException]
@[simp] theorem takeException_a (ret : Word) (brk : Bool) (vec : Word) (s : State) : (takeException ret brk vec s).a = s.a := by
  simp [takeException]
@[simp] theorem takeException_x (ret : Word) (brk : Bool) (vec : Word) (s : State) : (takeException ret brk vec s).x = s.x := by
  simp [takeException]
@[simp] theorem takeException_y (ret : Word) (brk : Bool) (vec : Word) (s : State) : (takeException ret brk vec s).y = s.y := by
  simp [takeException]
@[simp] theorem takeException_sp (ret : Word) (brk : Bool) (vec : Word) (s : State) : (takeException ret brk vec s).sp = s.sp - 1 - 1 - 1 := by
  simp [takeException]
@[simp] theorem takeException_p (ret : Word) (brk : Bool) (vec : Word) (s : State) : (takeException ret brk vec s).p = s.p.enter s.params.variant := by
  simp [takeException]
@[simp] theorem takeException_clk (ret : Word) (brk : Bool) (vec : Word) (s : State) : (takeException ret brk vec s).clk = s.clk := by
  simp [takeException]
@[simp] theorem takeException_halted (ret : Word) (brk : Bool) (vec : Word) (s : State) : (takeException ret brk vec s).halted = s.halted := by
  simp [takeException]

/-! ### Returning from one -/

@[simp] theorem returnFromException_params (s : State) : (returnFromException s).params = s.params := by
  simp [returnFromException]
@[simp] theorem returnFromException_a (s : State) : (returnFromException s).a = s.a := by
  simp [returnFromException]
@[simp] theorem returnFromException_x (s : State) : (returnFromException s).x = s.x := by
  simp [returnFromException]
@[simp] theorem returnFromException_y (s : State) : (returnFromException s).y = s.y := by
  simp [returnFromException]
@[simp] theorem returnFromException_sp (s : State) : (returnFromException s).sp = s.sp + 1 + 1 + 1 := by
  simp [returnFromException]
@[simp] theorem returnFromException_p (s : State) : (returnFromException s).p = statusLoad (pop8 s).1 := by
  simp [returnFromException]
@[simp] theorem returnFromException_clk (s : State) : (returnFromException s).clk = s.clk := by
  simp [returnFromException]
@[simp] theorem returnFromException_halted (s : State) : (returnFromException s).halted = s.halted := by
  simp [returnFromException]
@[simp] theorem returnFromException_mem (s : State) : (returnFromException s).mem = s.mem := by
  simp [returnFromException]

/-! ### What an access can do -/

/-- A read of a flat block gives its byte and changes nothing (rules R53 and R55). -/
theorem memRead_of_flat {w : Word} {s : State} (h : s.params.isFlat w = true) : memRead w s = (s.flat w, s) := by
  simp [memRead, h]

/-- In a valid map pages 0 and 1 are flat (rules R57 and R58). -/
theorem isFlat_of_low {q : Params} (h : q.wf = true) {w : Word} (hw : w.toNat < 0x200) : q.isFlat w = true := by
  simp only [Params.wf, Bool.and_eq_true, List.all_eq_true, decide_eq_true_eq] at h
  simp only [Params.isFlat, Bool.not_eq_true', List.contains_eq_mem, decide_eq_false_iff_not]
  intro hb
  have := (h.2 _ hb).1
  have := Nat.div_mul_le_self w.toNat q.blockSize
  simp only [Params.block] at *
  omega

/-- A read of a handler block gives the host's answer and records one call (rules R53 and R56). -/
theorem memRead_of_handler {w : Word} {s : State} (h : s.params.isFlat w = false) :
    memRead w s =
      (s.handlerAnswer w, (s.log (.read (s.params.block w) w s.clk (s.handlerAnswer w))).draw) := by
  simp [memRead, h]

/-- A write to a flat block is a store (rules R54 and R55). -/
theorem memWrite_of_flat {w : Word} {v : Byte} {s : State} (h : s.params.isFlat w = true) :
    memWrite w v s = s.setFlat w v := by
  simp [memWrite, h]

/-- A write to a handler block is one event and nothing else (rules R54 and R56). -/
theorem memWrite_of_handler {w : Word} {v : Byte} {s : State} (h : s.params.isFlat w = false) :
    memWrite w v s = s.log (.write (s.params.block w) w s.clk v) := by
  simp [memWrite, h]

/-- A write leaves every byte of another address alone. -/
theorem memWrite_read_other (w : Word) (v : Byte) (s : State) {b : Nat} (hb : b ≠ w.toNat) :
    Memory.read (memWrite w v s).mem b = Memory.read s.mem b := by
  unfold memWrite
  split
  · exact Memory.read_write_other s.mem v hb
  · rfl

/-- A push leaves every byte but the one at the stack pointer alone. -/
theorem push8_read_other (v : Byte) (s : State) {b : Nat} (hb : b ≠ (stackAddr s.sp).toNat) :
    Memory.read (push8 v s).mem b = Memory.read s.mem b :=
  memWrite_read_other _ v s hb

/-- Two states that agree on the parameters, the flat bytes, `clk` and the draw count read the same byte anywhere. -/
theorem memRead_congr (w : Word) {s t : State} (hp : t.params = s.params) (hm : t.flat w = s.flat w)
    (hc : t.clk = s.clk) (hd : t.draws = s.draws) : (memRead w t).1 = (memRead w s).1 := by
  unfold memRead State.handlerAnswer
  rw [hp, hm, hc, hd]
  split <;> rfl

/-! ### The canonical form of memory -/

theorem memWrite_keeps_wf (w : Word) (v : Byte) (s : State) (h : Memory.wf s.mem = true) :
    Memory.wf (memWrite w v s).mem = true := by
  unfold memWrite
  split
  · exact Memory.write_keeps_wf s.mem w.isLt v h
  · exact h

theorem push8_keeps_wf (v : Byte) (s : State) (h : Memory.wf s.mem = true) : Memory.wf (push8 v s).mem = true :=
  memWrite_keeps_wf _ v s h

theorem push16_keeps_wf (w : Word) (s : State) (h : Memory.wf s.mem = true) : Memory.wf (push16 w s).mem = true :=
  push8_keeps_wf _ _ (push8_keeps_wf _ s h)

theorem takeException_keeps_wf (ret : Word) (brk : Bool) (vec : Word) (s : State) (h : Memory.wf s.mem = true) :
    Memory.wf (takeException ret brk vec s).mem = true := by
  simpa [takeException] using push8_keeps_wf (statusImage brk s.p) _ (push16_keeps_wf ret s h)

theorem reset_memory_wf : Memory.wf State.reset.mem = true := rfl

end Sys2Proof.Machine
end

