-- ==== Sys2Proof/Laws/Frames.lean ====
section
/-! SUPPORT. What each frame of Machine/Operands.lean answers: always a next state, and which one. Later proofs rewrite with
these instead of unfolding a frame. -/

namespace Sys2Proof.Machine

theorem impliedInstr_next (cycles : Nat) (f : State → State) (s : State) :
    impliedInstr cycles f s = .next ((f (s.advance 1)).charge cycles) := rfl

theorem readInstr_next (r : ReadOp) (extra : Nat) (f : Byte → State → State) (s : State) :
    readInstr r extra f s =
      .next ((f (r.load (s.advance (lengthOf r.operands))).1 (r.load (s.advance (lengthOf r.operands))).2).charge
        (r.cycles + r.penalty s + extra)) := rfl

theorem immInstr_next (f : State → State) (s : State) : immInstr f s = .next ((f (s.advance 2)).charge 2) := rfl

theorem storeInstr_next (m : EaMode) (v : Byte) (s : State) :
    storeInstr m v s =
      .next ((memWrite (m.resolve s).ea v (s.advance (lengthOf m.operands))).charge m.storeCycles) := by
  cases m <;> rfl

theorem rmwMem_next (m : EaMode) (f : Byte → State → Byte × Flags) (after : Byte → State → State) (s : State) :
    ∃ t, rmwMem m f after s = .next t := ⟨_, rfl⟩

theorem branchInstr_next (cond : Bool) (b : Byte) (s : State) :
    branchInstr cond b s =
      .next ((s.setPc (if cond then branchTarget b s else s.pc + 2)).charge (2 + branchExtra cond b s)) := rfl

theorem idleInstr_next (len cycles : Nat) (s : State) : idleInstr len cycles s = .next ((s.advance len).charge cycles) :=
  rfl

/-- The resolver reads X, Y and the zero page alone, so moving PC does not change what it gives. -/
@[simp] theorem EaMode.resolve_advance (m : EaMode) (n : Nat) (s : State) : m.resolve (s.advance n) = m.resolve s := by
  cases m <;> rfl

/-- The byte read does not depend on PC. -/
@[simp] theorem EaMode.load_advance_fst (m : EaMode) (w : Word) (n : Nat) (s : State) :
    (m.load w (s.advance n)).1 = (m.load w s).1 := by
  unfold EaMode.load
  split
  · rfl
  · exact memRead_congr w rfl rfl rfl rfl

/-- The operand byte does not depend on PC. -/
@[simp] theorem ReadOp.load_advance_fst (r : ReadOp) (n : Nat) (s : State) :
    (r.load (s.advance n)).1 = (r.load s).1 := by
  cases r with
  | imm b => rfl
  | mem m => simp [ReadOp.load]

end Sys2Proof.Machine
end

