-- ==== Sys2Proof/Laws/PerInstr.lean ====
section
/-! SUPPORT. Statements made for every constructor of Instr, about the instruction as written: its length is one that rule R80
allows, and every form a variant has (WellFormed.lean, from the rules' lists of modes) has an opcode byte in that variant
(the encoder of Decode.lean). -/

namespace Sys2Proof.Laws.Encodable

/-- Rule R80's lengths, and an opcode byte for each well-formed form. -/
def Statement (i : Instr) : Prop :=
  (1 ≤ i.length ∧ i.length ≤ 3) ∧ ∀ v, WellFormed v i → (opcode? v i).isSome = true

theorem operands_le (m : EaMode) : m.operands.length ≤ 2 := by cases m <;> simp [EaMode.operands, wordBytes]

theorem lda (r : ReadOp) : Statement (.lda r) := by
  cases r with
  | imm b => exact ⟨⟨by simp [Instr.length], by simp [Instr.length, Instr.operands, ReadOp.operands]⟩, fun v _ => by cases v <;> rfl⟩
  | mem m =>
    refine ⟨⟨by simp [Instr.length], ?_⟩, fun v h => ?_⟩
    · have := operands_le m
      simp only [Instr.length, Instr.operands, ReadOp.operands]
      omega
    · cases v <;> cases m <;> first | rfl | exact absurd (show false = true from h) Bool.false_ne_true

theorem ldx (r : ReadOp) : Statement (.ldx r) := by
  cases r with
  | imm b => exact ⟨⟨by simp [Instr.length], by simp [Instr.length, Instr.operands, ReadOp.operands]⟩, fun v _ => by cases v <;> rfl⟩
  | mem m =>
    refine ⟨⟨by simp [Instr.length], ?_⟩, fun v h => ?_⟩
    · have := operands_le m
      simp only [Instr.length, Instr.operands, ReadOp.operands]
      omega
    · cases v <;> cases m <;> first | rfl | exact absurd (show false = true from h) Bool.false_ne_true

theorem ldy (r : ReadOp) : Statement (.ldy r) := by
  cases r with
  | imm b => exact ⟨⟨by simp [Instr.length], by simp [Instr.length, Instr.operands, ReadOp.operands]⟩, fun v _ => by cases v <;> rfl⟩
  | mem m =>
    refine ⟨⟨by simp [Instr.length], ?_⟩, fun v h => ?_⟩
    · have := operands_le m
      simp only [Instr.length, Instr.operands, ReadOp.operands]
      omega
    · cases v <;> cases m <;> first | rfl | exact absurd (show false = true from h) Bool.false_ne_true

theorem sta (m : EaMode) : Statement (.sta m) := by
  refine ⟨⟨by simp [Instr.length], ?_⟩, fun v h => ?_⟩
  · have := operands_le m
    simp only [Instr.length, Instr.operands]
    omega
  · cases v <;> cases m <;> first | rfl | exact absurd (show false = true from h) Bool.false_ne_true

theorem stx (m : EaMode) : Statement (.stx m) := by
  refine ⟨⟨by simp [Instr.length], ?_⟩, fun v h => ?_⟩
  · have := operands_le m
    simp only [Instr.length, Instr.operands]
    omega
  · cases v <;> cases m <;> first | rfl | exact absurd (show false = true from h) Bool.false_ne_true

theorem sty (m : EaMode) : Statement (.sty m) := by
  refine ⟨⟨by simp [Instr.length], ?_⟩, fun v h => ?_⟩
  · have := operands_le m
    simp only [Instr.length, Instr.operands]
    omega
  · cases v <;> cases m <;> first | rfl | exact absurd (show false = true from h) Bool.false_ne_true

theorem stz (m : EaMode) : Statement (.stz m) := by
  refine ⟨⟨by simp [Instr.length], ?_⟩, fun v h => ?_⟩
  · have := operands_le m
    simp only [Instr.length, Instr.operands]
    omega
  · cases v <;> cases m <;> first | rfl | exact absurd (show false = true from h) Bool.false_ne_true

theorem tax : Statement .tax := ⟨by decide, fun _ _ => rfl⟩

theorem tay : Statement .tay := ⟨by decide, fun _ _ => rfl⟩

theorem txa : Statement .txa := ⟨by decide, fun _ _ => rfl⟩

theorem tya : Statement .tya := ⟨by decide, fun _ _ => rfl⟩

theorem tsx : Statement .tsx := ⟨by decide, fun _ _ => rfl⟩

theorem txs : Statement .txs := ⟨by decide, fun _ _ => rfl⟩

theorem ora (r : ReadOp) : Statement (.ora r) := by
  cases r with
  | imm b => exact ⟨⟨by simp [Instr.length], by simp [Instr.length, Instr.operands, ReadOp.operands]⟩, fun v _ => by cases v <;> rfl⟩
  | mem m =>
    refine ⟨⟨by simp [Instr.length], ?_⟩, fun v h => ?_⟩
    · have := operands_le m
      simp only [Instr.length, Instr.operands, ReadOp.operands]
      omega
    · cases v <;> cases m <;> first | rfl | exact absurd (show false = true from h) Bool.false_ne_true

theorem and (r : ReadOp) : Statement (.and r) := by
  cases r with
  | imm b => exact ⟨⟨by simp [Instr.length], by simp [Instr.length, Instr.operands, ReadOp.operands]⟩, fun v _ => by cases v <;> rfl⟩
  | mem m =>
    refine ⟨⟨by simp [Instr.length], ?_⟩, fun v h => ?_⟩
    · have := operands_le m
      simp only [Instr.length, Instr.operands, ReadOp.operands]
      omega
    · cases v <;> cases m <;> first | rfl | exact absurd (show false = true from h) Bool.false_ne_true

theorem eor (r : ReadOp) : Statement (.eor r) := by
  cases r with
  | imm b => exact ⟨⟨by simp [Instr.length], by simp [Instr.length, Instr.operands, ReadOp.operands]⟩, fun v _ => by cases v <;> rfl⟩
  | mem m =>
    refine ⟨⟨by simp [Instr.length], ?_⟩, fun v h => ?_⟩
    · have := operands_le m
      simp only [Instr.length, Instr.operands, ReadOp.operands]
      omega
    · cases v <;> cases m <;> first | rfl | exact absurd (show false = true from h) Bool.false_ne_true

theorem adc (r : ReadOp) : Statement (.adc r) := by
  cases r with
  | imm b => exact ⟨⟨by simp [Instr.length], by simp [Instr.length, Instr.operands, ReadOp.operands]⟩, fun v _ => by cases v <;> rfl⟩
  | mem m =>
    refine ⟨⟨by simp [Instr.length], ?_⟩, fun v h => ?_⟩
    · have := operands_le m
      simp only [Instr.length, Instr.operands, ReadOp.operands]
      omega
    · cases v <;> cases m <;> first | rfl | exact absurd (show false = true from h) Bool.false_ne_true

theorem sbc (r : ReadOp) : Statement (.sbc r) := by
  cases r with
  | imm b => exact ⟨⟨by simp [Instr.length], by simp [Instr.length, Instr.operands, ReadOp.operands]⟩, fun v _ => by cases v <;> rfl⟩
  | mem m =>
    refine ⟨⟨by simp [Instr.length], ?_⟩, fun v h => ?_⟩
    · have := operands_le m
      simp only [Instr.length, Instr.operands, ReadOp.operands]
      omega
    · cases v <;> cases m <;> first | rfl | exact absurd (show false = true from h) Bool.false_ne_true

theorem sbcEb (b : Byte) : Statement (.sbcEb b) := by
  refine ⟨⟨by simp [Instr.length], by simp [Instr.length, Instr.operands]⟩, fun v h => ?_⟩
  cases v <;> first | rfl | exact absurd (show false = true from h) Bool.false_ne_true

theorem cmp (r : ReadOp) : Statement (.cmp r) := by
  cases r with
  | imm b => exact ⟨⟨by simp [Instr.length], by simp [Instr.length, Instr.operands, ReadOp.operands]⟩, fun v _ => by cases v <;> rfl⟩
  | mem m =>
    refine ⟨⟨by simp [Instr.length], ?_⟩, fun v h => ?_⟩
    · have := operands_le m
      simp only [Instr.length, Instr.operands, ReadOp.operands]
      omega
    · cases v <;> cases m <;> first | rfl | exact absurd (show false = true from h) Bool.false_ne_true

theorem cpx (r : ReadOp) : Statement (.cpx r) := by
  cases r with
  | imm b => exact ⟨⟨by simp [Instr.length], by simp [Instr.length, Instr.operands, ReadOp.operands]⟩, fun v _ => by cases v <;> rfl⟩
  | mem m =>
    refine ⟨⟨by simp [Instr.length], ?_⟩, fun v h => ?_⟩
    · have := operands_le m
      simp only [Instr.length, Instr.operands, ReadOp.operands]
      omega
    · cases v <;> cases m <;> first | rfl | exact absurd (show false = true from h) Bool.false_ne_true

theorem cpy (r : ReadOp) : Statement (.cpy r) := by
  cases r with
  | imm b => exact ⟨⟨by simp [Instr.length], by simp [Instr.length, Instr.operands, ReadOp.operands]⟩, fun v _ => by cases v <;> rfl⟩
  | mem m =>
    refine ⟨⟨by simp [Instr.length], ?_⟩, fun v h => ?_⟩
    · have := operands_le m
      simp only [Instr.length, Instr.operands, ReadOp.operands]
      omega
    · cases v <;> cases m <;> first | rfl | exact absurd (show false = true from h) Bool.false_ne_true

theorem bit (m : EaMode) : Statement (.bit m) := by
  refine ⟨⟨by simp [Instr.length], ?_⟩, fun v h => ?_⟩
  · have := operands_le m
    simp only [Instr.length, Instr.operands]
    omega
  · cases v <;> cases m <;> first | rfl | exact absurd (show false = true from h) Bool.false_ne_true

theorem bitImm (b : Byte) : Statement (.bitImm b) := by
  refine ⟨⟨by simp [Instr.length], by simp [Instr.length, Instr.operands]⟩, fun v h => ?_⟩
  cases v <;> first | rfl | exact absurd (show false = true from h) Bool.false_ne_true

theorem asl (r : RmwOp) : Statement (.asl r) := by
  cases r with
  | acc => exact ⟨⟨by simp [Instr.length], by simp [Instr.length, Instr.operands, RmwOp.operands]⟩, fun v _ => by cases v <;> rfl⟩
  | mem m =>
    refine ⟨⟨by simp [Instr.length], ?_⟩, fun v h => ?_⟩
    · have := operands_le m
      simp only [Instr.length, Instr.operands, RmwOp.operands]
      omega
    · cases v <;> cases m <;> first | rfl | exact absurd (show false = true from h) Bool.false_ne_true

theorem lsr (r : RmwOp) : Statement (.lsr r) := by
  cases r with
  | acc => exact ⟨⟨by simp [Instr.length], by simp [Instr.length, Instr.operands, RmwOp.operands]⟩, fun v _ => by cases v <;> rfl⟩
  | mem m =>
    refine ⟨⟨by simp [Instr.length], ?_⟩, fun v h => ?_⟩
    · have := operands_le m
      simp only [Instr.length, Instr.operands, RmwOp.operands]
      omega
    · cases v <;> cases m <;> first | rfl | exact absurd (show false = true from h) Bool.false_ne_true

theorem rol (r : RmwOp) : Statement (.rol r) := by
  cases r with
  | acc => exact ⟨⟨by simp [Instr.length], by simp [Instr.length, Instr.operands, RmwOp.operands]⟩, fun v _ => by cases v <;> rfl⟩
  | mem m =>
    refine ⟨⟨by simp [Instr.length], ?_⟩, fun v h => ?_⟩
    · have := operands_le m
      simp only [Instr.length, Instr.operands, RmwOp.operands]
      omega
    · cases v <;> cases m <;> first | rfl | exact absurd (show false = true from h) Bool.false_ne_true

theorem ror (r : RmwOp) : Statement (.ror r) := by
  cases r with
  | acc => exact ⟨⟨by simp [Instr.length], by simp [Instr.length, Instr.operands, RmwOp.operands]⟩, fun v _ => by cases v <;> rfl⟩
  | mem m =>
    refine ⟨⟨by simp [Instr.length], ?_⟩, fun v h => ?_⟩
    · have := operands_le m
      simp only [Instr.length, Instr.operands, RmwOp.operands]
      omega
    · cases v <;> cases m <;> first | rfl | exact absurd (show false = true from h) Bool.false_ne_true

theorem inc (m : EaMode) : Statement (.inc m) := by
  refine ⟨⟨by simp [Instr.length], ?_⟩, fun v h => ?_⟩
  · have := operands_le m
    simp only [Instr.length, Instr.operands]
    omega
  · cases v <;> cases m <;> first | rfl | exact absurd (show false = true from h) Bool.false_ne_true

theorem dec (m : EaMode) : Statement (.dec m) := by
  refine ⟨⟨by simp [Instr.length], ?_⟩, fun v h => ?_⟩
  · have := operands_le m
    simp only [Instr.length, Instr.operands]
    omega
  · cases v <;> cases m <;> first | rfl | exact absurd (show false = true from h) Bool.false_ne_true

theorem inx : Statement .inx := ⟨by decide, fun _ _ => rfl⟩

theorem iny : Statement .iny := ⟨by decide, fun _ _ => rfl⟩

theorem dex : Statement .dex := ⟨by decide, fun _ _ => rfl⟩

theorem dey : Statement .dey := ⟨by decide, fun _ _ => rfl⟩

theorem ina : Statement .ina := by
  refine ⟨by decide, fun v h => ?_⟩
  cases v <;> first | rfl | exact absurd (show false = true from h) Bool.false_ne_true

theorem dea : Statement .dea := by
  refine ⟨by decide, fun v h => ?_⟩
  cases v <;> first | rfl | exact absurd (show false = true from h) Bool.false_ne_true

theorem tsb (m : EaMode) : Statement (.tsb m) := by
  refine ⟨⟨by simp [Instr.length], ?_⟩, fun v h => ?_⟩
  · have := operands_le m
    simp only [Instr.length, Instr.operands]
    omega
  · cases v <;> cases m <;> first | rfl | exact absurd (show false = true from h) Bool.false_ne_true

theorem trb (m : EaMode) : Statement (.trb m) := by
  refine ⟨⟨by simp [Instr.length], ?_⟩, fun v h => ?_⟩
  · have := operands_le m
    simp only [Instr.length, Instr.operands]
    omega
  · cases v <;> cases m <;> first | rfl | exact absurd (show false = true from h) Bool.false_ne_true

theorem bpl (b : Byte) : Statement (.bpl b) := ⟨⟨by simp [Instr.length], by simp [Instr.length, Instr.operands]⟩, fun _ _ => rfl⟩

theorem bmi (b : Byte) : Statement (.bmi b) := ⟨⟨by simp [Instr.length], by simp [Instr.length, Instr.operands]⟩, fun _ _ => rfl⟩

theorem bvc (b : Byte) : Statement (.bvc b) := ⟨⟨by simp [Instr.length], by simp [Instr.length, Instr.operands]⟩, fun _ _ => rfl⟩

theorem bvs (b : Byte) : Statement (.bvs b) := ⟨⟨by simp [Instr.length], by simp [Instr.length, Instr.operands]⟩, fun _ _ => rfl⟩

theorem bcc (b : Byte) : Statement (.bcc b) := ⟨⟨by simp [Instr.length], by simp [Instr.length, Instr.operands]⟩, fun _ _ => rfl⟩

theorem bcs (b : Byte) : Statement (.bcs b) := ⟨⟨by simp [Instr.length], by simp [Instr.length, Instr.operands]⟩, fun _ _ => rfl⟩

theorem bne (b : Byte) : Statement (.bne b) := ⟨⟨by simp [Instr.length], by simp [Instr.length, Instr.operands]⟩, fun _ _ => rfl⟩

theorem beq (b : Byte) : Statement (.beq b) := ⟨⟨by simp [Instr.length], by simp [Instr.length, Instr.operands]⟩, fun _ _ => rfl⟩

theorem bra (b : Byte) : Statement (.bra b) := by
  refine ⟨⟨by simp [Instr.length], by simp [Instr.length, Instr.operands]⟩, fun v h => ?_⟩
  cases v <;> first | rfl | exact absurd (show false = true from h) Bool.false_ne_true

theorem jmp (m : JmpMode) : Statement (.jmp m) := by
  refine ⟨⟨by simp [Instr.length], ?_⟩, fun v h => ?_⟩
  · cases m <;> simp [Instr.length, Instr.operands, JmpMode.operands, wordBytes]
  · cases v <;> cases m <;> first | rfl | exact absurd (show false = true from h) Bool.false_ne_true

theorem jsr (w : Word) : Statement (.jsr w) := ⟨⟨by simp [Instr.length], by simp [Instr.length, Instr.operands, wordBytes]⟩, fun _ _ => rfl⟩

theorem rts : Statement .rts := ⟨by decide, fun _ _ => rfl⟩

theorem pha : Statement .pha := ⟨by decide, fun _ _ => rfl⟩

theorem php : Statement .php := ⟨by decide, fun _ _ => rfl⟩

theorem pla : Statement .pla := ⟨by decide, fun _ _ => rfl⟩

theorem plp : Statement .plp := ⟨by decide, fun _ _ => rfl⟩

theorem phx : Statement .phx := by
  refine ⟨by decide, fun v h => ?_⟩
  cases v <;> first | rfl | exact absurd (show false = true from h) Bool.false_ne_true

theorem phy : Statement .phy := by
  refine ⟨by decide, fun v h => ?_⟩
  cases v <;> first | rfl | exact absurd (show false = true from h) Bool.false_ne_true

theorem plx : Statement .plx := by
  refine ⟨by decide, fun v h => ?_⟩
  cases v <;> first | rfl | exact absurd (show false = true from h) Bool.false_ne_true

theorem ply : Statement .ply := by
  refine ⟨by decide, fun v h => ?_⟩
  cases v <;> first | rfl | exact absurd (show false = true from h) Bool.false_ne_true

theorem brk : Statement .brk := ⟨by decide, fun _ _ => rfl⟩

theorem rti : Statement .rti := ⟨by decide, fun _ _ => rfl⟩

theorem clc : Statement .clc := ⟨by decide, fun _ _ => rfl⟩

theorem sec : Statement .sec := ⟨by decide, fun _ _ => rfl⟩

theorem cli : Statement .cli := ⟨by decide, fun _ _ => rfl⟩

theorem sei : Statement .sei := ⟨by decide, fun _ _ => rfl⟩

theorem clv : Statement .clv := ⟨by decide, fun _ _ => rfl⟩

theorem cld : Statement .cld := ⟨by decide, fun _ _ => rfl⟩

theorem sed : Statement .sed := ⟨by decide, fun _ _ => rfl⟩

theorem nop : Statement .nop := ⟨by decide, fun _ _ => rfl⟩

theorem slo (m : EaMode) : Statement (.slo m) := by
  refine ⟨⟨by simp [Instr.length], ?_⟩, fun v h => ?_⟩
  · have := operands_le m
    simp only [Instr.length, Instr.operands]
    omega
  · cases v <;> cases m <;> first | rfl | exact absurd (show false = true from h) Bool.false_ne_true

theorem rla (m : EaMode) : Statement (.rla m) := by
  refine ⟨⟨by simp [Instr.length], ?_⟩, fun v h => ?_⟩
  · have := operands_le m
    simp only [Instr.length, Instr.operands]
    omega
  · cases v <;> cases m <;> first | rfl | exact absurd (show false = true from h) Bool.false_ne_true

theorem sre (m : EaMode) : Statement (.sre m) := by
  refine ⟨⟨by simp [Instr.length], ?_⟩, fun v h => ?_⟩
  · have := operands_le m
    simp only [Instr.length, Instr.operands]
    omega
  · cases v <;> cases m <;> first | rfl | exact absurd (show false = true from h) Bool.false_ne_true

theorem rra (m : EaMode) : Statement (.rra m) := by
  refine ⟨⟨by simp [Instr.length], ?_⟩, fun v h => ?_⟩
  · have := operands_le m
    simp only [Instr.length, Instr.operands]
    omega
  · cases v <;> cases m <;> first | rfl | exact absurd (show false = true from h) Bool.false_ne_true

theorem dcp (m : EaMode) : Statement (.dcp m) := by
  refine ⟨⟨by simp [Instr.length], ?_⟩, fun v h => ?_⟩
  · have := operands_le m
    simp only [Instr.length, Instr.operands]
    omega
  · cases v <;> cases m <;> first | rfl | exact absurd (show false = true from h) Bool.false_ne_true

theorem isb (m : EaMode) : Statement (.isb m) := by
  refine ⟨⟨by simp [Instr.length], ?_⟩, fun v h => ?_⟩
  · have := operands_le m
    simp only [Instr.length, Instr.operands]
    omega
  · cases v <;> cases m <;> first | rfl | exact absurd (show false = true from h) Bool.false_ne_true

theorem sax (m : EaMode) : Statement (.sax m) := by
  refine ⟨⟨by simp [Instr.length], ?_⟩, fun v h => ?_⟩
  · have := operands_le m
    simp only [Instr.length, Instr.operands]
    omega
  · cases v <;> cases m <;> first | rfl | exact absurd (show false = true from h) Bool.false_ne_true

theorem lax (m : EaMode) : Statement (.lax m) := by
  refine ⟨⟨by simp [Instr.length], ?_⟩, fun v h => ?_⟩
  · have := operands_le m
    simp only [Instr.length, Instr.operands]
    omega
  · cases v <;> cases m <;> first | rfl | exact absurd (show false = true from h) Bool.false_ne_true

theorem lxa (b : Byte) : Statement (.lxa b) := by
  refine ⟨⟨by simp [Instr.length], by simp [Instr.length, Instr.operands]⟩, fun v h => ?_⟩
  cases v <;> first | rfl | exact absurd (show false = true from h) Bool.false_ne_true

theorem anc (b : Byte) : Statement (.anc b) := by
  refine ⟨⟨by simp [Instr.length], by simp [Instr.length, Instr.operands]⟩, fun v h => ?_⟩
  cases v <;> first | rfl | exact absurd (show false = true from h) Bool.false_ne_true

theorem anc2b (b : Byte) : Statement (.anc2b b) := by
  refine ⟨⟨by simp [Instr.length], by simp [Instr.length, Instr.operands]⟩, fun v h => ?_⟩
  cases v <;> first | rfl | exact absurd (show false = true from h) Bool.false_ne_true

theorem alr (b : Byte) : Statement (.alr b) := by
  refine ⟨⟨by simp [Instr.length], by simp [Instr.length, Instr.operands]⟩, fun v h => ?_⟩
  cases v <;> first | rfl | exact absurd (show false = true from h) Bool.false_ne_true

theorem arr (b : Byte) : Statement (.arr b) := by
  refine ⟨⟨by simp [Instr.length], by simp [Instr.length, Instr.operands]⟩, fun v h => ?_⟩
  cases v <;> first | rfl | exact absurd (show false = true from h) Bool.false_ne_true

theorem xaa (b : Byte) : Statement (.xaa b) := by
  refine ⟨⟨by simp [Instr.length], by simp [Instr.length, Instr.operands]⟩, fun v h => ?_⟩
  cases v <;> first | rfl | exact absurd (show false = true from h) Bool.false_ne_true

theorem axs (b : Byte) : Statement (.axs b) := by
  refine ⟨⟨by simp [Instr.length], by simp [Instr.length, Instr.operands]⟩, fun v h => ?_⟩
  cases v <;> first | rfl | exact absurd (show false = true from h) Bool.false_ne_true

theorem las (w : Word) : Statement (.las w) := by
  refine ⟨⟨by simp [Instr.length], by simp [Instr.length, Instr.operands, wordBytes]⟩, fun v h => ?_⟩
  cases v <;> first | rfl | exact absurd (show false = true from h) Bool.false_ne_true

theorem ahx (m : EaMode) : Statement (.ahx m) := by
  refine ⟨⟨by simp [Instr.length], ?_⟩, fun v h => ?_⟩
  · have := operands_le m
    simp only [Instr.length, Instr.operands]
    omega
  · cases v <;> cases m <;> first | rfl | exact absurd (show false = true from h) Bool.false_ne_true

theorem tas (w : Word) : Statement (.tas w) := by
  refine ⟨⟨by simp [Instr.length], by simp [Instr.length, Instr.operands, wordBytes]⟩, fun v h => ?_⟩
  cases v <;> first | rfl | exact absurd (show false = true from h) Bool.false_ne_true

theorem shy (w : Word) : Statement (.shy w) := by
  refine ⟨⟨by simp [Instr.length], by simp [Instr.length, Instr.operands, wordBytes]⟩, fun v h => ?_⟩
  cases v <;> first | rfl | exact absurd (show false = true from h) Bool.false_ne_true

theorem shx (w : Word) : Statement (.shx w) := by
  refine ⟨⟨by simp [Instr.length], by simp [Instr.length, Instr.operands, wordBytes]⟩, fun v h => ?_⟩
  cases v <;> first | rfl | exact absurd (show false = true from h) Bool.false_ne_true

theorem nopUndoc (op : Byte) (f : NopForm) : Statement (.nopUndoc op f) := by
  refine ⟨⟨by simp [Instr.length], ?_⟩, fun v h => ?_⟩
  · cases f <;> simp [Instr.length, Instr.operands, NopForm.operands, wordBytes]
  · simp only [WellFormed, wellFormed] at h
    simp [opcode?, listedByte, h]

theorem jam (op : Byte) (b : Byte) : Statement (.jam op b) := by
  refine ⟨⟨by simp [Instr.length], by simp [Instr.length, Instr.operands]⟩, fun v h => ?_⟩
  simp only [WellFormed, wellFormed] at h
  simp [opcode?, listedByte, h]

theorem nopBad (op : Byte) (f : BadForm) : Statement (.nopBad op f) := by
  refine ⟨⟨by simp [Instr.length], ?_⟩, fun v h => ?_⟩
  · cases f <;> simp [Instr.length, Instr.operands, BadForm.operands, wordBytes]
  · simp only [WellFormed, wellFormed] at h
    simp [opcode?, listedByte, h]

end Sys2Proof.Laws.Encodable
end

