-- ==== Sys2Proof/Tests/Slice0.lean ====
section
/-! SUPPORT. Tests of the model on small states, and the witnesses that the statements' hypotheses can be met. Expected results
are those of spec/95_test_vectors.md, or, for the decoder, the encodings of spec/30_encoding.md. -/

namespace Sys2Proof.Tests

open Machine

/-! ### Small states -/

/-- The parameters of the conventions of spec/95_test_vectors.md. -/
def params (v : Variant) : Params where
  variant := v
  blockSize := 1024
  handlerBlocks := []
  nmosJamHalts := false
  xaaMagic := 0xFF
  lxaMagic := 0xFF
  shPageCrossCorrupts := false

/-- The start state of those conventions. -/
def start (v : Variant) : State :=
  { State.reset with params := params v, pc := 0x0200, sp := 0xFF, p := statusLoad 0x00 }

/-- The state with bytes stored. -/
def load (cells : List (Word × Byte)) (s : State) : State := cells.foldl (fun t c => t.setFlat c.1 c.2) s

/-- The outcome is a next state that passes a check. -/
def gives (o : Out) (check : State → Bool) : Bool :=
  match o with
  | .next t => check t
  | .fault _ => false
  | .refused _ => false

/-- The start state with every block from 0x0400 on backed by the host. -/
def hosted : State := { start .cmos with params := { params .cmos with handlerBlocks := (List.range 63).map (· + 1) } }

/-- A halted machine, as a JAM leaves it. -/
def stuck : State :=
  { start .nmos with params := { params .nmos with nmosJamHalts := true }, halted := true }

/-! ### The decoder: words written out bit by bit from rules R82 to R89 -/

theorem test_decode_loads :
    decode .nmos [0b10101001, 0x41] = .ok (.lda (.imm 0x41), []) ∧
      decode .nmos [0b10110110, 0xF0] = .ok (.ldx (.mem (.zpY 0xF0)), []) ∧
      decode .cmos [0b10111100, 0x00, 0x30] = .ok (.ldy (.mem (.absX 0x3000)), []) ∧
      decode .nmos [0b10110001, 0x20] = .ok (.lda (.mem (.indY 0x20)), []) ∧
      decode .cmos [0b10110010, 0x20] = .ok (.lda (.mem (.ind 0x20)), []) := by decide

theorem test_decode_stores :
    decode .nmos [0b10010001, 0x20] = .ok (.sta (.indY 0x20), []) ∧
      decode .nmos [0b10001110, 0x34, 0x12] = .ok (.stx (.abs 0x1234), []) ∧
      decode .cmos [0b10010100, 0x80] = .ok (.sty (.zpX 0x80), []) ∧
      decode .cmos [0b10011100, 0x34, 0x12] = .ok (.stz (.abs 0x1234), []) := by decide

theorem test_decode_transfers :
    decode .nmos [0b10101010] = .ok (.tax, []) ∧ decode .nmos [0b10101000] = .ok (.tay, []) ∧
      decode .nmos [0b10001010] = .ok (.txa, []) ∧ decode .nmos [0b10011000] = .ok (.tya, []) ∧
      decode .nmos [0b10111010] = .ok (.tsx, []) ∧ decode .nmos [0b10011010] = .ok (.txs, []) := by decide

theorem test_decode_alu :
    decode .nmos [0b00000001, 0x80] = .ok (.ora (.mem (.indX 0x80)), []) ∧
      decode .nmos [0b00111001, 0xF0, 0x20] = .ok (.and (.mem (.absY 0x20F0)), []) ∧
      decode .nmos [0b01011101, 0xF0, 0x20] = .ok (.eor (.mem (.absX 0x20F0)), []) ∧
      decode .nmos [0b01100101, 0x10] = .ok (.adc (.mem (.zp 0x10)), []) ∧
      decode .nmos [0b11101001, 0x01] = .ok (.sbc (.imm 0x01), []) ∧
      decode .nmos [0b11101011, 0x01] = .ok (.sbcEb 0x01, []) := by decide

theorem test_decode_compares :
    decode .nmos [0b11001101, 0x34, 0x12] = .ok (.cmp (.mem (.abs 0x1234)), []) ∧
      decode .nmos [0b11100100, 0x10] = .ok (.cpx (.mem (.zp 0x10)), []) ∧
      decode .nmos [0b11000000, 0x10] = .ok (.cpy (.imm 0x10), []) ∧
      decode .nmos [0b00101100, 0x34, 0x12] = .ok (.bit (.abs 0x1234), []) ∧
      decode .cmos [0b10001001, 0xC0] = .ok (.bitImm 0xC0, []) := by decide

theorem test_decode_rmw :
    decode .nmos [0b00001010] = .ok (.asl .acc, []) ∧ decode .nmos [0b01000110, 0x10] = .ok (.lsr (.mem (.zp 0x10)), []) ∧
      decode .nmos [0b00101110, 0x34, 0x12] = .ok (.rol (.mem (.abs 0x1234)), []) ∧
      decode .nmos [0b01110110, 0x10] = .ok (.ror (.mem (.zpX 0x10)), []) ∧
      decode .nmos [0b11101110, 0x34, 0x12] = .ok (.inc (.abs 0x1234), []) ∧
      decode .nmos [0b11011110, 0x34, 0x12] = .ok (.dec (.absX 0x1234), []) ∧
      decode .cmos [0b00000100, 0x10] = .ok (.tsb (.zp 0x10), []) ∧
      decode .cmos [0b00011100, 0x34, 0x12] = .ok (.trb (.abs 0x1234), []) := by decide

theorem test_decode_register_steps :
    decode .nmos [0b11101000] = .ok (.inx, []) ∧ decode .nmos [0b11001000] = .ok (.iny, []) ∧
      decode .nmos [0b11001010] = .ok (.dex, []) ∧ decode .nmos [0b10001000] = .ok (.dey, []) ∧
      decode .cmos [0b00011010] = .ok (.ina, []) ∧ decode .cmos [0b00111010] = .ok (.dea, []) := by decide

theorem test_decode_branches :
    decode .nmos [0b00010000, 0xFE] = .ok (.bpl 0xFE, []) ∧ decode .nmos [0b00110000, 0xFE] = .ok (.bmi 0xFE, []) ∧
      decode .nmos [0b01010000, 0xFE] = .ok (.bvc 0xFE, []) ∧ decode .nmos [0b01110000, 0xFE] = .ok (.bvs 0xFE, []) ∧
      decode .nmos [0b10010000, 0xFE] = .ok (.bcc 0xFE, []) ∧ decode .nmos [0b10110000, 0xFE] = .ok (.bcs 0xFE, []) ∧
      decode .nmos [0b11010000, 0xFE] = .ok (.bne 0xFE, []) ∧ decode .nmos [0b11110000, 0xFE] = .ok (.beq 0xFE, []) ∧
      decode .cmos [0b10000000, 0xFE] = .ok (.bra 0xFE, []) := by decide

theorem test_decode_jumps :
    decode .nmos [0b01001100, 0x34, 0x12] = .ok (.jmp (.abs 0x1234), []) ∧
      decode .nmos [0b01101100, 0xFF, 0x02] = .ok (.jmp (.ind 0x02FF), []) ∧
      decode .cmos [0b01111100, 0x00, 0x10] = .ok (.jmp (.indX 0x1000), []) ∧
      decode .nmos [0b00100000, 0x34, 0x12] = .ok (.jsr 0x1234, []) ∧ decode .nmos [0b01100000] = .ok (.rts, []) := by
  decide

theorem test_decode_stack :
    decode .nmos [0b01001000] = .ok (.pha, []) ∧ decode .nmos [0b00001000] = .ok (.php, []) ∧
      decode .nmos [0b01101000] = .ok (.pla, []) ∧ decode .nmos [0b00101000] = .ok (.plp, []) ∧
      decode .cmos [0b11011010] = .ok (.phx, []) ∧ decode .cmos [0b01011010] = .ok (.phy, []) ∧
      decode .cmos [0b11111010] = .ok (.plx, []) ∧ decode .cmos [0b01111010] = .ok (.ply, []) := by decide

theorem test_decode_system :
    decode .nmos [0b00000000, 0xEA] = .ok (.brk, [0xEA]) ∧ decode .nmos [0b01000000] = .ok (.rti, []) ∧
      decode .nmos [0b00011000] = .ok (.clc, []) ∧ decode .nmos [0b00111000] = .ok (.sec, []) ∧
      decode .nmos [0b01011000] = .ok (.cli, []) ∧ decode .nmos [0b01111000] = .ok (.sei, []) ∧
      decode .nmos [0b10111000] = .ok (.clv, []) ∧ decode .nmos [0b11011000] = .ok (.cld, []) ∧
      decode .nmos [0b11111000] = .ok (.sed, []) ∧ decode .nmos [0b11101010] = .ok (.nop, []) := by decide

theorem test_decode_combined :
    decode .nmos [0b00000111, 0x10] = .ok (.slo (.zp 0x10), []) ∧
      decode .nmos [0b00111011, 0x34, 0x12] = .ok (.rla (.absY 0x1234), []) ∧
      decode .nmos [0b01000011, 0x10] = .ok (.sre (.indX 0x10), []) ∧
      decode .nmos [0b01111111, 0x34, 0x12] = .ok (.rra (.absX 0x1234), []) ∧
      decode .nmos [0b11010011, 0x10] = .ok (.dcp (.indY 0x10), []) ∧
      decode .nmos [0b11101111, 0x34, 0x12] = .ok (.isb (.abs 0x1234), []) ∧
      decode .nmos [0b10010111, 0x10] = .ok (.sax (.zpY 0x10), []) ∧
      decode .nmos [0b10111111, 0x34, 0x12] = .ok (.lax (.absY 0x1234), []) := by decide

theorem test_decode_undocumented_immediates :
    decode .nmos [0b10101011, 0x0F] = .ok (.lxa 0x0F, []) ∧ decode .nmos [0b00001011, 0x0F] = .ok (.anc 0x0F, []) ∧
      decode .nmos [0b00101011, 0x0F] = .ok (.anc2b 0x0F, []) ∧ decode .nmos [0b01001011, 0x0F] = .ok (.alr 0x0F, []) ∧
      decode .nmos [0b01101011, 0x0F] = .ok (.arr 0x0F, []) ∧ decode .nmos [0b10001011, 0x0F] = .ok (.xaa 0x0F, []) ∧
      decode .nmos [0b11001011, 0x0F] = .ok (.axs 0x0F, []) := by decide

theorem test_decode_undocumented_rest :
    decode .nmos [0b10111011, 0x34, 0x12] = .ok (.las 0x1234, []) ∧
      decode .nmos [0b10010011, 0x10] = .ok (.ahx (.indY 0x10), []) ∧
      decode .nmos [0b10011011, 0x34, 0x12] = .ok (.tas 0x1234, []) ∧
      decode .nmos [0b10011100, 0x34, 0x12] = .ok (.shy 0x1234, []) ∧
      decode .nmos [0b10011110, 0x34, 0x12] = .ok (.shx 0x1234, []) ∧
      decode .nmos [0b01011100, 0x34, 0x12] = .ok (.nopUndoc 0x5C (.absX 0x1234), []) ∧
      decode .nmos [0b10010010, 0x55] = .ok (.jam 0x92 0x55, []) := by decide

theorem test_decode_cmos_unused :
    decode .cmos [0b00110011] = .ok (.nopBad 0x33 .one, []) ∧
      decode .cmos [0b01010100, 0x10] = .ok (.nopBad 0x54 (.two 0x10), []) ∧
      decode .cmos [0b11011100, 0x00, 0x20] = .ok (.nopBad 0xDC (.three 0x2000), []) := by decide

theorem test_decode_refuses_missing_bytes :
    decode .nmos [] = .error .noOpcode ∧ decode .nmos [0xA9] = .error .missingOperand ∧
      decode .nmos [0xAD, 0x00] = .error .missingOperand := by decide

/-! ### Ill-formed terms, one for each check of `wellFormed` -/

theorem test_ill_formed_modes :
    wellFormed .nmos (.lda (.mem (.ind 0))) = false ∧ wellFormed .cmos (.lda (.mem (.zpY 0))) = false ∧
      wellFormed .nmos (.ldx (.mem (.zpX 0))) = false ∧ wellFormed .nmos (.ldy (.mem (.zpY 0))) = false ∧
      wellFormed .nmos (.sta (.ind 0)) = false ∧ wellFormed .nmos (.stx (.absY 0)) = false ∧
      wellFormed .nmos (.sty (.absX 0)) = false ∧ wellFormed .cmos (.stz (.absY 0)) = false ∧
      wellFormed .nmos (.ora (.mem (.ind 0))) = false ∧ wellFormed .nmos (.and (.mem (.ind 0))) = false ∧
      wellFormed .nmos (.eor (.mem (.ind 0))) = false ∧ wellFormed .nmos (.adc (.mem (.ind 0))) = false ∧
      wellFormed .nmos (.sbc (.mem (.ind 0))) = false ∧ wellFormed .nmos (.cmp (.mem (.ind 0))) = false ∧
      wellFormed .nmos (.cpx (.mem (.absX 0))) = false ∧ wellFormed .nmos (.cpy (.mem (.absX 0))) = false ∧
      wellFormed .nmos (.bit (.absX 0)) = false ∧ wellFormed .cmos (.bit (.absY 0)) = false := by decide

theorem test_ill_formed_rmw_modes :
    wellFormed .nmos (.asl (.mem (.absY 0))) = false ∧ wellFormed .nmos (.lsr (.mem (.indY 0))) = false ∧
      wellFormed .nmos (.rol (.mem (.zpY 0))) = false ∧ wellFormed .nmos (.ror (.mem (.indX 0))) = false ∧
      wellFormed .nmos (.inc (.absY 0)) = false ∧ wellFormed .nmos (.dec (.absY 0)) = false ∧
      wellFormed .cmos (.tsb (.zpX 0)) = false ∧ wellFormed .cmos (.trb (.absX 0)) = false := by decide

theorem test_ill_formed_cmos_only :
    wellFormed .nmos (.stz (.zp 0)) = false ∧ wellFormed .nmos (.bitImm 0) = false ∧ wellFormed .nmos .ina = false ∧
      wellFormed .nmos .dea = false ∧ wellFormed .nmos (.tsb (.zp 0)) = false ∧ wellFormed .nmos (.trb (.zp 0)) = false ∧
      wellFormed .nmos (.bra 0) = false ∧ wellFormed .nmos (.jmp (.indX 0)) = false ∧ wellFormed .nmos .phx = false ∧
      wellFormed .nmos .phy = false ∧ wellFormed .nmos .plx = false ∧ wellFormed .nmos .ply = false ∧
      wellFormed .nmos (.nopBad 0x02 (.two 0)) = false := by decide

theorem test_ill_formed_nmos_only :
    wellFormed .cmos (.sbcEb 0) = false ∧ wellFormed .cmos (.slo (.zp 0)) = false ∧
      wellFormed .cmos (.rla (.zp 0)) = false ∧ wellFormed .cmos (.sre (.zp 0)) = false ∧
      wellFormed .cmos (.rra (.zp 0)) = false ∧ wellFormed .cmos (.dcp (.zp 0)) = false ∧
      wellFormed .cmos (.isb (.zp 0)) = false ∧ wellFormed .cmos (.sax (.zp 0)) = false ∧
      wellFormed .cmos (.lax (.zp 0)) = false ∧ wellFormed .cmos (.lxa 0) = false ∧ wellFormed .cmos (.anc 0) = false ∧
      wellFormed .cmos (.anc2b 0) = false ∧ wellFormed .cmos (.alr 0) = false ∧ wellFormed .cmos (.arr 0) = false ∧
      wellFormed .cmos (.xaa 0) = false ∧ wellFormed .cmos (.axs 0) = false ∧ wellFormed .cmos (.las 0) = false ∧
      wellFormed .cmos (.ahx (.absY 0)) = false ∧ wellFormed .cmos (.tas 0) = false ∧
      wellFormed .cmos (.shy 0) = false ∧ wellFormed .cmos (.shx 0) = false ∧
      wellFormed .cmos (.nopUndoc 0x1A .implied) = false ∧ wellFormed .cmos (.jam 0x02 0) = false := by decide

theorem test_ill_formed_undocumented :
    wellFormed .nmos (.slo (.zpY 0)) = false ∧ wellFormed .nmos (.rla (.ind 0)) = false ∧
      wellFormed .nmos (.sre (.zpY 0)) = false ∧ wellFormed .nmos (.rra (.ind 0)) = false ∧
      wellFormed .nmos (.dcp (.zpY 0)) = false ∧ wellFormed .nmos (.isb (.ind 0)) = false ∧
      wellFormed .nmos (.sax (.absX 0)) = false ∧ wellFormed .nmos (.lax (.absX 0)) = false ∧
      wellFormed .nmos (.ahx (.absX 0)) = false ∧ wellFormed .nmos (.nopUndoc 0xEA .implied) = false ∧
      wellFormed .nmos (.nopUndoc 0x1A (.zp 0)) = false ∧ wellFormed .nmos (.jam 0x03 0) = false ∧
      wellFormed .cmos (.nopBad 0xEA .one) = false ∧ wellFormed .cmos (.nopBad 0x5C (.two 0)) = false := by decide

theorem test_well_formed_boundaries :
    wellFormed .cmos (.lda (.mem (.ind 0xFF))) = true ∧ wellFormed .cmos (.bit (.absX 0xFFFF)) = true ∧
      wellFormed .nmos (.nopUndoc 0xFA .implied) = true ∧ wellFormed .nmos (.jam 0xF2 0xFF) = true ∧
      wellFormed .cmos (.nopBad 0xFC (.three 0xFFFF)) = true := by decide

/-! ### One step of each instruction, from section 2 of spec/95_test_vectors.md -/

/-! #### Loads, stores and transfers (section 2.1) -/

/-- Vector 41.3. -/
theorem test_v41_3_lda_abs_x_cross :
    gives (step (load [(0x0200, 0xBD), (0x0201, 0xFF), (0x0202, 0x12),
        (0x1300, 0x42)] { start .nmos with x := 0x01 }))
      (fun t => t.pc == 0x0203 && t.a == 0x42 && t.p == statusLoad 0x00 && t.clk == 5) = true := by decide

/-- Vector 41.6. -/
theorem test_v41_6_lda_zp_x_wrap :
    gives (step (load [(0x0200, 0xA1), (0x0201, 0xFF), (0x0001, 0x34), (0x0002, 0x12),
        (0x1234, 0x99)] { start .nmos with x := 0x02 }))
      (fun t => t.pc == 0x0202 && t.a == 0x99 && t.p == statusLoad 0x80 && t.clk == 6) = true := by decide

/-- Vector 41.8. -/
theorem test_v41_8_ldx_zp_y_wrap :
    gives (step (load [(0x0200, 0xB6), (0x0201, 0xF0), (0x0010, 0x00)] { start .nmos with y := 0x20 }))
      (fun t => t.pc == 0x0202 && t.p == statusLoad 0x02 && t.clk == 4) = true := by decide

/-- Vector 41.9. -/
theorem test_v41_9_ldy_abs :
    gives (step (load [(0x0200, 0xAC), (0x0201, 0x00), (0x0202, 0x30), (0x3000, 0xC0)] (start .cmos)))
      (fun t => t.pc == 0x0203 && t.y == 0xC0 && t.p == statusLoad 0x80 && t.clk == 4) = true := by decide

/-- Vector 41.10. -/
theorem test_v41_10_sta_abs_x :
    gives (step (load [(0x0200, 0x9D), (0x0201, 0xFF), (0x0202, 0x12)] { start .nmos with a := 0x55, x := 0x01 }))
      (fun t => t.pc == 0x0203 && t.p == statusLoad 0x00 && t.flat 0x1300 == 0x55 && t.clk == 5) = true := by decide

/-- Vector 41.12. -/
theorem test_v41_12_sta_zp_y :
    gives (step (load [(0x0200, 0x91), (0x0201, 0x20), (0x0020, 0x00),
        (0x0021, 0x40)] { start .cmos with a := 0xAA }))
      (fun t => t.pc == 0x0202 && t.p == statusLoad 0x00 && t.flat 0x4000 == 0xAA && t.clk == 6) = true := by decide

/-- Vector 41.13. -/
theorem test_v41_13_stx_zp_y_wrap :
    gives (step (load [(0x0200, 0x96), (0x0201, 0xFF)] { start .nmos with x := 0x11, y := 0x02 }))
      (fun t => t.pc == 0x0202 && t.p == statusLoad 0x00 && t.flat 0x0001 == 0x11 && t.clk == 4) = true := by decide

/-- Vector 41.14. -/
theorem test_v41_14_sty_zp_x :
    gives (step (load [(0x0200, 0x94), (0x0201, 0x80)] { start .cmos with x := 0x90, y := 0x22 }))
      (fun t => t.pc == 0x0202 && t.p == statusLoad 0x00 && t.flat 0x0010 == 0x22 && t.clk == 4) = true := by decide

/-- Vector 41.15. -/
theorem test_v41_15_stz_abs_x :
    gives (step (load [(0x0200, 0x9E), (0x0201, 0x00), (0x0202, 0x30),
        (0x3005, 0xFF)] { start .cmos with x := 0x05 }))
      (fun t => t.pc == 0x0203 && t.p == statusLoad 0x00 && t.flat 0x3005 == 0x00 && t.clk == 5) = true := by decide

/-- Vector 41.16. -/
theorem test_v41_16_tax :
    gives (step (load [(0x0200, 0xAA)] { start .nmos with a := 0x80 }))
      (fun t => t.pc == 0x0201 && t.x == 0x80 && t.p == statusLoad 0x80 && t.clk == 2) = true := by decide

/-- Vector 41.17. -/
theorem test_v41_17_tay_zero :
    gives (step (load [(0x0200, 0xA8)] { start .cmos with y := 0x05 }))
      (fun t => t.pc == 0x0201 && t.y == 0x00 && t.p == statusLoad 0x02 && t.clk == 2) = true := by decide

/-- Vector 41.18. -/
theorem test_v41_18_txa :
    gives (step (load [(0x0200, 0x8A)] { start .nmos with x := 0x7F }))
      (fun t => t.pc == 0x0201 && t.a == 0x7F && t.p == statusLoad 0x00 && t.clk == 2) = true := by decide

/-- Vector 41.19. -/
theorem test_v41_19_tya :
    gives (step (load [(0x0200, 0x98)] { start .cmos with y := 0xFF }))
      (fun t => t.pc == 0x0201 && t.a == 0xFF && t.p == statusLoad 0x80 && t.clk == 2) = true := by decide

/-- Vector 41.20. -/
theorem test_v41_20_tsx :
    gives (step (load [(0x0200, 0xBA)] { start .nmos with x := 0x55, sp := 0x00 }))
      (fun t => t.pc == 0x0201 && t.x == 0x00 && t.p == statusLoad 0x02 && t.clk == 2) = true := by decide

/-- Vector 41.21. -/
theorem test_v41_21_txs_no_flags :
    gives (step (load [(0x0200, 0x9A)] (start .nmos)))
      (fun t => t.pc == 0x0201 && t.sp == 0x00 && t.p == statusLoad 0x00 && t.clk == 2) = true := by decide

/-! #### Arithmetic and logic (section 2.2) -/

/-- Vector 42.1. -/
theorem test_v42_1_ora :
    gives (step (load [(0x0200, 0x09), (0x0201, 0x0F)] { start .nmos with a := 0xF0 }))
      (fun t => t.pc == 0x0202 && t.a == 0xFF && t.p == statusLoad 0x80 && t.clk == 2) = true := by decide

/-- Vector 42.2. -/
theorem test_v42_2_ora_zero :
    gives (step (load [(0x0200, 0x05), (0x0201, 0x10), (0x0010, 0x00)] (start .cmos)))
      (fun t => t.pc == 0x0202 && t.p == statusLoad 0x02 && t.clk == 3) = true := by decide

/-- Vector 42.3. -/
theorem test_v42_3_and_abs_y_cross :
    gives (step (load [(0x0200, 0x39), (0x0201, 0xF0), (0x0202, 0x20),
        (0x2110, 0xAA)] { start .nmos with a := 0xCC, y := 0x20 }))
      (fun t => t.pc == 0x0203 && t.a == 0x88 && t.p == statusLoad 0x80 && t.clk == 5) = true := by decide

/-- Vector 42.4. -/
theorem test_v42_4_eor_zp_y :
    gives (step (load [(0x0200, 0x51), (0x0201, 0x40), (0x0040, 0x00), (0x0041, 0x50),
        (0x5000, 0xFF)] { start .cmos with a := 0xFF }))
      (fun t => t.pc == 0x0202 && t.a == 0x00 && t.p == statusLoad 0x02 && t.clk == 5) = true := by decide

/-- Vector 42.5. -/
theorem test_v42_5_eor_zp :
    gives (step (load [(0x0200, 0x52), (0x0201, 0x40), (0x0040, 0x00), (0x0041, 0x50),
        (0x5000, 0xF0)] { start .cmos with a := 0x0F }))
      (fun t => t.pc == 0x0202 && t.a == 0xFF && t.p == statusLoad 0x80 && t.clk == 5) = true := by decide

/-- Vector 42.12. -/
theorem test_v42_12_adc_dec_79_00_c :
    gives (step (load [(0x0200, 0x69), (0x0201, 0x00)] { start .nmos with a := 0x79, p := statusLoad 0x09 }))
      (fun t => t.pc == 0x0202 && t.a == 0x80 && t.p == statusLoad 0xC8 && t.clk == 2) = true := by decide

/-- Vector 42.15. -/
theorem test_v42_15_adc_dec_58_46_c :
    gives (step (load [(0x0200, 0x69), (0x0201, 0x46)] { start .cmos with a := 0x58, p := statusLoad 0x09 }))
      (fun t => t.pc == 0x0202 && t.a == 0x05 && t.p == statusLoad 0x49 && t.clk == 3) = true := by decide

/-- Vector 42.17. -/
theorem test_v42_17_sbc_binary_overflow :
    gives (step (load [(0x0200, 0xE9), (0x0201, 0x01)] { start .cmos with a := 0x80, p := statusLoad 0x01 }))
      (fun t => t.pc == 0x0202 && t.a == 0x7F && t.p == statusLoad 0x41 && t.clk == 2) = true := by decide

/-- Vector 42.20. -/
theorem test_v42_20_sbc_dec_00_01 :
    gives (step (load [(0x0200, 0xE9), (0x0201, 0x01)] { start .cmos with p := statusLoad 0x09 }))
      (fun t => t.pc == 0x0202 && t.a == 0x99 && t.p == statusLoad 0x88 && t.clk == 3) = true := by decide

/-- Vector 42.23. -/
theorem test_v42_23_sbc_eb_dup :
    gives (step (load [(0x0200, 0xEB), (0x0201, 0x01)] { start .nmos with a := 0x05, p := statusLoad 0x01 }))
      (fun t => t.pc == 0x0202 && t.a == 0x04 && t.p == statusLoad 0x01 && t.clk == 2) = true := by decide

/-- Vector 42.24. -/
theorem test_v42_24_cmp_equal :
    gives (step (load [(0x0200, 0xC9), (0x0201, 0x40)] { start .nmos with a := 0x40 }))
      (fun t => t.pc == 0x0202 && t.p == statusLoad 0x03 && t.clk == 2) = true := by decide

/-- Vector 42.26. -/
theorem test_v42_26_cmp_greater_v_kept :
    gives (step (load [(0x0200, 0xC9), (0x0201, 0x01)] { start .nmos with a := 0xFF, p := statusLoad 0x40 }))
      (fun t => t.pc == 0x0202 && t.p == statusLoad 0xC1 && t.clk == 2) = true := by decide

/-- Vector 42.27. -/
theorem test_v42_27_cpx_zp :
    gives (step (load [(0x0200, 0xE4), (0x0201, 0x10), (0x0010, 0x80)] { start .nmos with x := 0x05 }))
      (fun t => t.pc == 0x0202 && t.p == statusLoad 0x80 && t.clk == 3) = true := by decide

/-- Vector 42.28. -/
theorem test_v42_28_cpy :
    gives (step (load [(0x0200, 0xC0), (0x0201, 0x00)] (start .cmos)))
      (fun t => t.pc == 0x0202 && t.p == statusLoad 0x03 && t.clk == 2) = true := by decide

/-- Vector 42.29. -/
theorem test_v42_29_bit_zp :
    gives (step (load [(0x0200, 0x24), (0x0201, 0x10), (0x0010, 0xC0)] { start .nmos with a := 0x01 }))
      (fun t => t.pc == 0x0202 && t.p == statusLoad 0xC2 && t.clk == 3) = true := by decide

/-- Vector 42.30. -/
theorem test_v42_30_bit_abs_x :
    gives (step (load [(0x0200, 0x3C), (0x0201, 0xFF), (0x0202, 0x10),
        (0x1100, 0x40)] { start .cmos with a := 0x40, x := 0x01 }))
      (fun t => t.pc == 0x0203 && t.p == statusLoad 0x40 && t.clk == 5) = true := by decide

/-- Vector 42.31. -/
theorem test_v42_31_bit :
    gives (step (load [(0x0200, 0x89), (0x0201, 0xC0)] { start .cmos with a := 0x3F, p := statusLoad 0xC0 }))
      (fun t => t.pc == 0x0202 && t.p == statusLoad 0xC2 && t.clk == 2) = true := by decide

/-! #### Read-modify-write (section 2.3) -/

/-- Vector 43.2. -/
theorem test_v43_2_asl_zp :
    gives (step (load [(0x0200, 0x06), (0x0201, 0x10), (0x0010, 0x41)] (start .cmos)))
      (fun t => t.pc == 0x0202 && t.p == statusLoad 0x80 && t.flat 0x0010 == 0x82 && t.clk == 5) = true := by decide

/-- Vector 43.6. -/
theorem test_v43_6_lsr_abs :
    gives (step (load [(0x0200, 0x4E), (0x0201, 0x00), (0x0202, 0x30), (0x3000, 0xFE)] (start .cmos)))
      (fun t => t.pc == 0x0203 && t.p == statusLoad 0x00 && t.flat 0x3000 == 0x7F && t.clk == 6) = true := by decide

/-- Vector 43.8. -/
theorem test_v43_8_rol_zp_x :
    gives (step (load [(0x0200, 0x36), (0x0201, 0xF0), (0x0010, 0x40)] { start .cmos with x := 0x20 }))
      (fun t => t.pc == 0x0202 && t.p == statusLoad 0x80 && t.flat 0x0010 == 0x80 && t.clk == 6) = true := by decide

/-- Vector 43.10. -/
theorem test_v43_10_ror_abs_x_cross :
    gives (step (load [(0x0200, 0x7E), (0x0201, 0xFF), (0x0202, 0x30),
        (0x3100, 0x02)] { start .nmos with x := 0x01 }))
      (fun t => t.pc == 0x0203 && t.p == statusLoad 0x00 && t.flat 0x3100 == 0x01 && t.clk == 7) = true := by decide

/-- Vector 43.11. -/
theorem test_v43_11_inc_zp_wrap :
    gives (step (load [(0x0200, 0xE6), (0x0201, 0x10), (0x0010, 0xFF)] (start .nmos)))
      (fun t => t.pc == 0x0202 && t.p == statusLoad 0x02 && t.flat 0x0010 == 0x00 && t.clk == 5) = true := by decide

/-- Vector 43.14. -/
theorem test_v43_14_dec_abs :
    gives (step (load [(0x0200, 0xCE), (0x0201, 0x00), (0x0202, 0x30), (0x3000, 0x01)] (start .cmos)))
      (fun t => t.pc == 0x0203 && t.p == statusLoad 0x02 && t.flat 0x3000 == 0x00 && t.clk == 6) = true := by decide

/-- Vector 43.15. -/
theorem test_v43_15_inx_wrap :
    gives (step (load [(0x0200, 0xE8)] { start .nmos with x := 0xFF }))
      (fun t => t.pc == 0x0201 && t.x == 0x00 && t.p == statusLoad 0x02 && t.clk == 2) = true := by decide

/-- Vector 43.16. -/
theorem test_v43_16_iny :
    gives (step (load [(0x0200, 0xC8)] { start .cmos with y := 0x7F }))
      (fun t => t.pc == 0x0201 && t.y == 0x80 && t.p == statusLoad 0x80 && t.clk == 2) = true := by decide

/-- Vector 43.17. -/
theorem test_v43_17_dex :
    gives (step (load [(0x0200, 0xCA)] { start .nmos with x := 0x01 }))
      (fun t => t.pc == 0x0201 && t.x == 0x00 && t.p == statusLoad 0x02 && t.clk == 2) = true := by decide

/-- Vector 43.18. -/
theorem test_v43_18_dey_wrap :
    gives (step (load [(0x0200, 0x88)] (start .cmos)))
      (fun t => t.pc == 0x0201 && t.y == 0xFF && t.p == statusLoad 0x80 && t.clk == 2) = true := by decide

/-- Vector 43.19. -/
theorem test_v43_19_ina :
    gives (step (load [(0x0200, 0x1A)] { start .cmos with a := 0xFF }))
      (fun t => t.pc == 0x0201 && t.a == 0x00 && t.p == statusLoad 0x02 && t.clk == 2) = true := by decide

/-- Vector 43.20. -/
theorem test_v43_20_dea :
    gives (step (load [(0x0200, 0x3A)] (start .cmos)))
      (fun t => t.pc == 0x0201 && t.a == 0xFF && t.p == statusLoad 0x80 && t.clk == 2) = true := by decide

/-- Vector 43.21. -/
theorem test_v43_21_tsb_zp :
    gives (step (load [(0x0200, 0x04), (0x0201, 0x10), (0x0010, 0xF0)] { start .cmos with a := 0x0F }))
      (fun t => t.pc == 0x0202 && t.p == statusLoad 0x02 && t.flat 0x0010 == 0xFF && t.clk == 5) = true := by decide

/-- Vector 43.24. -/
theorem test_v43_24_trb_abs :
    gives (step (load [(0x0200, 0x1C), (0x0201, 0x00), (0x0202, 0x30),
        (0x3000, 0xF0)] { start .cmos with a := 0x0F }))
      (fun t => t.pc == 0x0203 && t.p == statusLoad 0x02 && t.clk == 6) = true := by decide

/-! #### Control (section 2.4) -/

/-- Vector 44.1. -/
theorem test_v44_1_bpl_taken_offset_2 :
    gives (step (load [(0x0200, 0x10), (0x0201, 0xFE)] (start .nmos)))
      (fun t => t.pc == 0x0200 && t.p == statusLoad 0x00 && t.clk == 3) = true := by decide

/-- Vector 44.2. -/
theorem test_v44_2_bpl_not_taken :
    gives (step (load [(0x0200, 0x10), (0x0201, 0x10)] { start .cmos with p := statusLoad 0x80 }))
      (fun t => t.pc == 0x0202 && t.p == statusLoad 0x80 && t.clk == 2) = true := by decide

/-- Vector 44.3. -/
theorem test_v44_3_bmi_taken :
    gives (step (load [(0x0200, 0x30), (0x0201, 0x10)] { start .nmos with p := statusLoad 0x80 }))
      (fun t => t.pc == 0x0212 && t.p == statusLoad 0x80 && t.clk == 3) = true := by decide

/-- Vector 44.4. -/
theorem test_v44_4_bvc_not_taken :
    gives (step (load [(0x0200, 0x50), (0x0201, 0x10)] { start .nmos with p := statusLoad 0x40 }))
      (fun t => t.pc == 0x0202 && t.p == statusLoad 0x40 && t.clk == 2) = true := by decide

/-- Vector 44.5. -/
theorem test_v44_5_bvs_taken_cross :
    gives (step (load [(0x02F0, 0x70), (0x02F1, 0x20)] { start .cmos with pc := 0x02F0, p := statusLoad 0x40 }))
      (fun t => t.pc == 0x0312 && t.p == statusLoad 0x40 && t.clk == 4) = true := by decide

/-- Vector 44.6. -/
theorem test_v44_6_bcc_back_cross :
    gives (step (load [(0x0300, 0x90), (0x0301, 0x80)] { start .nmos with pc := 0x0300 }))
      (fun t => t.pc == 0x0282 && t.p == statusLoad 0x00 && t.clk == 4) = true := by decide

/-- Vector 44.7. -/
theorem test_v44_7_bcs_taken :
    gives (step (load [(0x0400, 0xB0), (0x0401, 0x02)] { start .cmos with pc := 0x0400, p := statusLoad 0x01 }))
      (fun t => t.pc == 0x0404 && t.p == statusLoad 0x01 && t.clk == 3) = true := by decide

/-- Vector 44.8. -/
theorem test_v44_8_bne_wrap :
    gives (step (load [(0xFFF0, 0xD0), (0xFFF1, 0x20)] { start .nmos with pc := 0xFFF0 }))
      (fun t => t.pc == 0x0012 && t.p == statusLoad 0x00 && t.clk == 4) = true := by decide

/-- Vector 44.9. -/
theorem test_v44_9_beq_8_literal :
    gives (step (load [(0x10FE, 0xF0), (0x10FF, 0x05)] { start .nmos with pc := 0x10FE, p := statusLoad 0x02 }))
      (fun t => t.pc == 0x1105 && t.p == statusLoad 0x02 && t.clk == 3) = true := by decide

/-- Vector 44.10. -/
theorem test_v44_10_beq_8_intended :
    gives (step (load [(0x10FC, 0xF0), (0x10FD, 0x07)] { start .cmos with pc := 0x10FC, p := statusLoad 0x02 }))
      (fun t => t.pc == 0x1105 && t.p == statusLoad 0x02 && t.clk == 4) = true := by decide

/-- Vector 44.12. -/
theorem test_v44_12_bra :
    gives (step (load [(0x0200, 0x80), (0x0201, 0x7F)] (start .cmos)))
      (fun t => t.pc == 0x0281 && t.p == statusLoad 0x00 && t.clk == 3) = true := by decide

/-- Vector 44.13. -/
theorem test_v44_13_bra_cross :
    gives (step (load [(0x0200, 0x80), (0x0201, 0x80)] (start .cmos)))
      (fun t => t.pc == 0x0182 && t.p == statusLoad 0x00 && t.clk == 4) = true := by decide

/-- Vector 44.16. -/
theorem test_v44_16_jmp_02ff_nmos :
    gives (step (load [(0x0400, 0x6C), (0x0401, 0xFF), (0x0402, 0x02), (0x0200, 0x12), (0x02FF, 0x34),
        (0x0300, 0x56)] { start .nmos with pc := 0x0400 }))
      (fun t => t.pc == 0x1234 && t.p == statusLoad 0x00 && t.clk == 5) = true := by decide

/-- Vector 44.17. -/
theorem test_v44_17_jmp_02ff_cmos :
    gives (step (load [(0x0400, 0x6C), (0x0401, 0xFF), (0x0402, 0x02), (0x0200, 0x12), (0x02FF, 0x34),
        (0x0300, 0x56)] { start .cmos with pc := 0x0400 }))
      (fun t => t.pc == 0x5634 && t.p == statusLoad 0x00 && t.clk == 6) = true := by decide

/-- Vector 44.20. -/
theorem test_v44_20_jsr_sp_wrap :
    gives (step (load [(0x0200, 0x20), (0x0201, 0x34), (0x0202, 0x12)] { start .cmos with sp := 0x00 }))
      (fun t => t.pc == 0x1234 && t.sp == 0xFE && t.p == statusLoad 0x00 && t.flat 0x0100 == 0x02 &&
        t.flat 0x01FF == 0x02 && t.clk == 6) = true := by decide

/-- Vector 44.22. -/
theorem test_v44_22_rts_from_ffff :
    gives (step (load [(0x1234, 0x60), (0x01FE, 0xFF), (0x01FF, 0xFF)] { start .cmos with pc := 0x1234, sp := 0xFD }))
      (fun t => t.pc == 0x0000 && t.sp == 0xFF && t.p == statusLoad 0x00 && t.clk == 6) = true := by decide

/-! #### Stack, flags and BRK (section 2.5) -/

/-- Vector 45.2. -/
theorem test_v45_2_pha_sp_00_wrap :
    gives (step (load [(0x0200, 0x48)] { start .cmos with a := 0x5A, sp := 0x00 }))
      (fun t => t.pc == 0x0201 && t.sp == 0xFF && t.p == statusLoad 0x00 && t.flat 0x0100 == 0x5A &&
        t.clk == 3) = true := by decide

/-- Vector 45.4. -/
theorem test_v45_4_php_all_set :
    gives (step (load [(0x0200, 0x08)] { start .cmos with p := statusLoad 0xCF }))
      (fun t => t.pc == 0x0201 && t.sp == 0xFE && t.p == statusLoad 0xCF && t.flat 0x01FF == 0xFF &&
        t.clk == 3) = true := by decide

/-- Vector 45.6. -/
theorem test_v45_6_pla_sp_ff_wrap :
    gives (step (load [(0x0200, 0x68), (0x0100, 0x80)] (start .cmos)))
      (fun t => t.pc == 0x0201 && t.a == 0x80 && t.sp == 0x00 && t.p == statusLoad 0x80 &&
        t.clk == 4) = true := by decide

/-- Vector 45.7. -/
theorem test_v45_7_plp_drops_bits_4_5 :
    gives (step (load [(0x0200, 0x28), (0x01FF, 0xFF)] { start .nmos with sp := 0xFE }))
      (fun t => t.pc == 0x0201 && t.sp == 0xFF && t.p == statusLoad 0xCF &&
        t.hostLog == [.hook 4]) = true := by decide

/-- Vector 45.8. -/
theorem test_v45_8_plp_0x30 :
    gives (step (load [(0x0200, 0x28), (0x01FF, 0x30)] { start .cmos with sp := 0xFE, p := statusLoad 0xCF }))
      (fun t => t.pc == 0x0201 && t.sp == 0xFF && t.p == statusLoad 0x00 &&
        t.hostLog == [.hook 4]) = true := by decide

/-- Vector 45.9. -/
theorem test_v45_9_phx :
    gives (step (load [(0x0200, 0xDA)] { start .cmos with x := 0x77 }))
      (fun t => t.pc == 0x0201 && t.sp == 0xFE && t.p == statusLoad 0x00 && t.flat 0x01FF == 0x77 &&
        t.clk == 3) = true := by decide

/-- Vector 45.10. -/
theorem test_v45_10_phy :
    gives (step (load [(0x0200, 0x5A)] { start .cmos with y := 0x66 }))
      (fun t => t.pc == 0x0201 && t.sp == 0xFE && t.p == statusLoad 0x00 && t.flat 0x01FF == 0x66 &&
        t.clk == 3) = true := by decide

/-- Vector 45.11. -/
theorem test_v45_11_plx :
    gives (step (load [(0x0200, 0xFA), (0x01FF, 0x80)] { start .cmos with sp := 0xFE }))
      (fun t => t.pc == 0x0201 && t.x == 0x80 && t.sp == 0xFF && t.p == statusLoad 0x80 &&
        t.clk == 4) = true := by decide

/-- Vector 45.12. -/
theorem test_v45_12_ply :
    gives (step (load [(0x0200, 0x7A), (0x01FF, 0x00)] { start .cmos with y := 0x44, sp := 0xFE }))
      (fun t => t.pc == 0x0201 && t.y == 0x00 && t.sp == 0xFF && t.p == statusLoad 0x02 &&
        t.clk == 4) = true := by decide

/-- Vector 45.14. -/
theorem test_v45_14_brk_nmos_d_kept :
    gives (step (load [(0x0200, 0x00), (0x0201, 0xEA), (0xFFFE, 0x00),
        (0xFFFF, 0x90)] { start .nmos with p := statusLoad 0x09 }))
      (fun t => t.pc == 0x9000 && t.sp == 0xFC && t.p == statusLoad 0x0D && t.flat 0x01FD == 0x39 &&
        t.flat 0x01FE == 0x02 && t.flat 0x01FF == 0x02 && t.clk == 7) = true := by decide

/-- Vector 45.15. -/
theorem test_v45_15_brk_cmos_d_cleared :
    gives (step (load [(0x0200, 0x00), (0x0201, 0xEA), (0xFFFE, 0x00),
        (0xFFFF, 0x90)] { start .cmos with p := statusLoad 0x09 }))
      (fun t => t.pc == 0x9000 && t.sp == 0xFC && t.p == statusLoad 0x05 && t.flat 0x01FD == 0x39 &&
        t.flat 0x01FE == 0x02 && t.flat 0x01FF == 0x02 && t.clk == 7) = true := by decide

/-- Vector 45.16. -/
theorem test_v45_16_rti :
    gives (step (load [(0x9000, 0x40), (0x01FD, 0xFB), (0x01FE, 0x02),
        (0x01FF, 0x02)] { start .nmos with pc := 0x9000, sp := 0xFC }))
      (fun t => t.pc == 0x0202 && t.sp == 0xFF && t.p == statusLoad 0xCB &&
        t.hostLog == [.hook 6]) = true := by decide

/-- Vector 45.17. -/
theorem test_v45_17_rti :
    gives (step (load [(0x9000, 0x40), (0x01FD, 0x00), (0x01FE, 0x34),
        (0x01FF, 0x12)] { start .cmos with pc := 0x9000, sp := 0xFC, p := statusLoad 0x04 }))
      (fun t => t.pc == 0x1234 && t.sp == 0xFF && t.p == statusLoad 0x00 &&
        t.hostLog == [.hook 6]) = true := by decide

/-- Vector 45.18. -/
theorem test_v45_18_clc :
    gives (step (load [(0x0200, 0x18)] { start .nmos with p := statusLoad 0x01 }))
      (fun t => t.pc == 0x0201 && t.p == statusLoad 0x00 && t.clk == 2) = true := by decide

/-- Vector 45.19. -/
theorem test_v45_19_sec :
    gives (step (load [(0x0200, 0x38)] (start .cmos)))
      (fun t => t.pc == 0x0201 && t.p == statusLoad 0x01 && t.clk == 2) = true := by decide

/-- Vector 45.20. -/
theorem test_v45_20_cli :
    gives (step (load [(0x0200, 0x58)] { start .nmos with p := statusLoad 0x04 }))
      (fun t => t.pc == 0x0201 && t.p == statusLoad 0x00 && t.hostLog == [.hook 2]) = true := by decide

/-- Vector 45.21. -/
theorem test_v45_21_sei :
    gives (step (load [(0x0200, 0x78)] (start .cmos)))
      (fun t => t.pc == 0x0201 && t.p == statusLoad 0x04 && t.clk == 2) = true := by decide

/-- Vector 45.22. -/
theorem test_v45_22_clv :
    gives (step (load [(0x0200, 0xB8)] { start .nmos with p := statusLoad 0x40 }))
      (fun t => t.pc == 0x0201 && t.p == statusLoad 0x00 && t.clk == 2) = true := by decide

/-- Vector 45.23. -/
theorem test_v45_23_cld :
    gives (step (load [(0x0200, 0xD8)] { start .cmos with p := statusLoad 0x08 }))
      (fun t => t.pc == 0x0201 && t.p == statusLoad 0x00 && t.clk == 2) = true := by decide

/-- Vector 45.24. -/
theorem test_v45_24_sed :
    gives (step (load [(0x0200, 0xF8)] (start .nmos)))
      (fun t => t.pc == 0x0201 && t.p == statusLoad 0x08 && t.clk == 2) = true := by decide

/-- Vector 45.25. -/
theorem test_v45_25_nop :
    gives (step (load [(0x0200, 0xEA)] (start .nmos)))
      (fun t => t.pc == 0x0201 && t.p == statusLoad 0x00 && t.clk == 2) = true := by decide

/-! #### NMOS undocumented opcodes (section 2.6) -/

/-- Vector 46.1. -/
theorem test_v46_1_slo_zp :
    gives (step (load [(0x0200, 0x07), (0x0201, 0x10), (0x0010, 0x81)] { start .nmos with a := 0x01 }))
      (fun t => t.pc == 0x0202 && t.a == 0x03 && t.p == statusLoad 0x01 && t.flat 0x0010 == 0x02 &&
        t.clk == 5) = true := by decide

/-- Vector 46.2. -/
theorem test_v46_2_rla_zp :
    gives (step (load [(0x0200, 0x27), (0x0201, 0x10),
        (0x0010, 0x40)] { start .nmos with a := 0xFF, p := statusLoad 0x01 }))
      (fun t => t.pc == 0x0202 && t.a == 0x81 && t.p == statusLoad 0x80 && t.flat 0x0010 == 0x81 &&
        t.clk == 5) = true := by decide

/-- Vector 46.3. -/
theorem test_v46_3_sre_abs :
    gives (step (load [(0x0200, 0x4F), (0x0201, 0x00), (0x0202, 0x30),
        (0x3000, 0x03)] { start .nmos with a := 0xFF }))
      (fun t => t.pc == 0x0203 && t.a == 0xFE && t.p == statusLoad 0x81 && t.flat 0x3000 == 0x01 &&
        t.clk == 6) = true := by decide

/-- Vector 46.5. -/
theorem test_v46_5_rra_zp_decimal :
    gives (step (load [(0x0200, 0x67), (0x0201, 0x10),
        (0x0010, 0x02)] { start .nmos with a := 0x10, p := statusLoad 0x08 }))
      (fun t => t.pc == 0x0202 && t.a == 0x11 && t.p == statusLoad 0x08 && t.flat 0x0010 == 0x01 &&
        t.clk == 5) = true := by decide

/-- Vector 46.6. -/
theorem test_v46_6_dcp_zp :
    gives (step (load [(0x0200, 0xC7), (0x0201, 0x10), (0x0010, 0x41)] { start .nmos with a := 0x40 }))
      (fun t => t.pc == 0x0202 && t.p == statusLoad 0x03 && t.flat 0x0010 == 0x40 && t.clk == 5) = true := by decide

/-- Vector 46.8. -/
theorem test_v46_8_isb_abs_y :
    gives (step (load [(0x0200, 0xFB), (0x0201, 0xFF), (0x0202, 0x30),
        (0x3100, 0xFF)] { start .nmos with a := 0x10, y := 0x01, p := statusLoad 0x01 }))
      (fun t => t.pc == 0x0203 && t.p == statusLoad 0x01 && t.flat 0x3100 == 0x00 && t.clk == 7) = true := by decide

/-- Vector 46.10. -/
theorem test_v46_10_sax_zp_y :
    gives (step (load [(0x0200, 0x97), (0x0201, 0xFF)] { start .nmos with a := 0xFF, x := 0x0F, y := 0x02 }))
      (fun t => t.pc == 0x0202 && t.p == statusLoad 0x00 && t.flat 0x0001 == 0x0F && t.clk == 4) = true := by decide

/-- Vector 46.11. -/
theorem test_v46_11_lax_abs_y_cross :
    gives (step (load [(0x0200, 0xBF), (0x0201, 0xFF), (0x0202, 0x30),
        (0x3100, 0x80)] { start .nmos with y := 0x01 }))
      (fun t => t.pc == 0x0203 && t.a == 0x80 && t.x == 0x80 && t.p == statusLoad 0x80 &&
        t.clk == 5) = true := by decide

/-- Vector 46.14. -/
theorem test_v46_14_lxa_magic_ee :
    gives (step (load [(0x0200, 0xAB), (0x0201, 0x0F)] { start .nmos with params := { params .nmos with lxaMagic := 0xEE }, a := 0x30 }))
      (fun t => t.pc == 0x0202 && t.a == 0x0E && t.x == 0x0E && t.p == statusLoad 0x00 &&
        t.clk == 2) = true := by decide

/-- Vector 46.16. -/
theorem test_v46_16_anc_2b :
    gives (step (load [(0x0200, 0x2B), (0x0201, 0x7F)] { start .nmos with a := 0xFF, p := statusLoad 0x01 }))
      (fun t => t.pc == 0x0202 && t.a == 0x7F && t.p == statusLoad 0x00 && t.clk == 2) = true := by decide

/-- Vector 46.15. -/
theorem test_v46_15_anc :
    gives (step (load [(0x0200, 0x0B), (0x0201, 0x80)] { start .nmos with a := 0xFF }))
      (fun t => t.pc == 0x0202 && t.a == 0x80 && t.p == statusLoad 0x81 && t.clk == 2) = true := by decide

/-- Vector 46.17. -/
theorem test_v46_17_alr :
    gives (step (load [(0x0200, 0x4B), (0x0201, 0x03)] { start .nmos with a := 0xFF }))
      (fun t => t.pc == 0x0202 && t.a == 0x01 && t.p == statusLoad 0x01 && t.clk == 2) = true := by decide

/-- Vector 46.19. -/
theorem test_v46_19_arr_binary_v :
    gives (step (load [(0x0200, 0x6B), (0x0201, 0x40)] { start .nmos with a := 0xFF }))
      (fun t => t.pc == 0x0202 && t.a == 0x20 && t.p == statusLoad 0x40 && t.clk == 2) = true := by decide

/-- Vector 46.20. -/
theorem test_v46_20_arr_decimal :
    gives (step (load [(0x0200, 0x6B), (0x0201, 0xFF)] { start .nmos with a := 0x99, p := statusLoad 0x08 }))
      (fun t => t.pc == 0x0202 && t.a == 0xA2 && t.p == statusLoad 0x49 && t.clk == 2) = true := by decide

/-- Vector 46.21. -/
theorem test_v46_21_xaa_magic_ff :
    gives (step (load [(0x0200, 0x8B), (0x0201, 0xFF)] { start .nmos with x := 0x5A }))
      (fun t => t.pc == 0x0202 && t.a == 0x5A && t.p == statusLoad 0x00 && t.clk == 2) = true := by decide

/-- Vector 46.22. -/
theorem test_v46_22_axs :
    gives (step (load [(0x0200, 0xCB), (0x0201, 0x01)] { start .nmos with a := 0xF0, x := 0x0F }))
      (fun t => t.pc == 0x0202 && t.x == 0xFF && t.p == statusLoad 0x80 && t.clk == 2) = true := by decide

/-- Vector 46.24. -/
theorem test_v46_24_las_abs_y :
    gives (step (load [(0x0200, 0xBB), (0x0201, 0x00), (0x0202, 0x30),
        (0x3000, 0x3F)] { start .nmos with sp := 0xF0 }))
      (fun t => t.pc == 0x0203 && t.a == 0x30 && t.x == 0x30 && t.sp == 0x30 && t.p == statusLoad 0x00 &&
        t.clk == 4) = true := by decide

/-- Vector 46.25. -/
theorem test_v46_25_ahx_abs_y :
    gives (step (load [(0x0200, 0x9F), (0x0201, 0x00), (0x0202, 0x12)] { start .nmos with a := 0xFF, x := 0xFF }))
      (fun t => t.pc == 0x0203 && t.p == statusLoad 0x00 && t.flat 0x1200 == 0x13 && t.clk == 5) = true := by decide

/-- Vector 46.27. -/
theorem test_v46_27_tas_abs_y :
    gives (step (load [(0x0200, 0x9B), (0x0201, 0x00), (0x0202, 0x12)] { start .nmos with a := 0xF0, x := 0x3C }))
      (fun t => t.pc == 0x0203 && t.sp == 0x30 && t.p == statusLoad 0x00 && t.flat 0x1200 == 0x10 &&
        t.clk == 5) = true := by decide

/-- Vector 46.28. -/
theorem test_v46_28_shy_abs_x :
    gives (step (load [(0x0200, 0x9C), (0x0201, 0x00), (0x0202, 0x12)] { start .nmos with y := 0xFF }))
      (fun t => t.pc == 0x0203 && t.p == statusLoad 0x00 && t.flat 0x1200 == 0x13 && t.clk == 5) = true := by decide

/-- Vector 46.31. -/
theorem test_v46_31_shx_page_cross_corrupting :
    gives (step (load [(0x0200, 0x9E), (0x0201, 0xFF),
        (0x0202, 0x12)] { start .nmos with params := { params .nmos with shPageCrossCorrupts := true }, x := 0x0F, y := 0x01 }))
      (fun t => t.pc == 0x0203 && t.p == statusLoad 0x00 && t.flat 0x0300 == 0x03 && t.clk == 5) = true := by decide

/-- Vector 46.33. -/
theorem test_v46_33_nop_abs_x_1c_cross :
    gives (step (load [(0x0200, 0x1C), (0x0201, 0xFF), (0x0202, 0x12)] { start .nmos with x := 0x01 }))
      (fun t => t.pc == 0x0203 && t.p == statusLoad 0x00 && t.clk == 5) = true := by decide

/-- Vector 46.36. -/
theorem test_v46_36_jam_02_default :
    gives (step (load [(0x0200, 0x02), (0x0201, 0x00)] (start .nmos)))
      (fun t => t.pc == 0x0202 && t.p == statusLoad 0x00 && t.clk == 2) = true := by decide

/-! #### CMOS unused opcodes (section 2.7) -/

/-- Vector 47.6. -/
theorem test_v47_6_eb_not_sbc_on_cmos :
    gives (step (load [(0x0200, 0xEB), (0x0201, 0x01)] { start .cmos with a := 0x05, p := statusLoad 0x01 }))
      (fun t => t.pc == 0x0201 && t.p == statusLoad 0x01 && t.clk == 1) = true := by decide

/-- Vector 47.12. -/
theorem test_v47_12_5c :
    gives (step (load [(0x0200, 0x5C), (0x0201, 0x34), (0x0202, 0x12)] (start .cmos)))
      (fun t => t.pc == 0x0203 && t.p == statusLoad 0x00 && t.clk == 7) = true := by decide

/-! ### Host transitions, from section 3 of spec/95_test_vectors.md -/

/-- The start state of that section. -/
def interrupted (v : Variant) : State :=
  load [(0xFFFE, 0x00), (0xFFFF, 0x90), (0xFFFA, 0x00), (0xFFFB, 0xA0), (0xFFFC, 0x00), (0xFFFD, 0x80)]
    { start v with pc := 0x0234, p := statusLoad 0x09 }

/-- Vector 60.1. -/
theorem test_v60_1_irq :
    gives (hostEvent .irq (interrupted .nmos))
      (fun t => t.pc == 0x9000 && t.sp == 0xFC && t.p == statusLoad 0x0D && t.flat 0x01FF == 0x02 && t.flat 0x01FE == 0x34 &&
        t.flat 0x01FD == 0x29 && t.clk == 7) = true := by decide

/-- Vector 60.4. -/
theorem test_v60_4_nmi :
    gives (hostEvent .nmi (interrupted .cmos))
      (fun t => t.pc == 0xA000 && t.sp == 0xFC && t.p == statusLoad 0x05 && t.flat 0x01FD == 0x29) = true := by decide

/-- Cases 60.5 and 60.7. -/
theorem test_v60_5_masked_and_halted :
    hostIrq { interrupted .nmos with p := statusLoad 0x04 } = .refused .irqMasked ∧
      hostNmi { interrupted .nmos with halted := true } = .fault .halted := ⟨rfl, rfl⟩

/-- Vectors 70.1 and 70.2. -/
theorem test_v70_reset :
    gives (hostEvent .reset (interrupted .nmos)) (fun t => t.pc == 0x8000 && t.p.i && !t.halted && t.clk == 0) = true ∧
      gives (hostEvent .reset (interrupted .cmos)) (fun t => t.pc == 0x8000 && t.p.i && !t.p.d) = true := by decide

/-- Rule R516 and decision D34: a host write of 0xFF to P is loaded as PLP loads it, on a halted core too (log entry 21). -/
theorem test_host_writes_p :
    gives (hostEvent (.writeP 0xFF) stuck)
      (fun t => t.p == statusLoad 0xCF && t.p.n && t.p.c && t.halted && t.pc == 0x0200) = true := by decide

/-- Rule R422: with `NMOS_JAM_HALTS` the machine halts at the JAM byte, and then takes no step (rule R34). -/
theorem test_jam_halts :
    gives (step (load [(0x0200, 0x02)] { stuck with halted := false })) (fun t => t.halted && t.pc == 0x0200 && t.clk == 2) =
        true ∧
      step stuck = .fault .halted := ⟨by decide, rfl⟩

/-- Rule R56: a store to a handler block is one event, told the `clk` of the instruction's start, and memory is as before. -/
theorem test_handler_write :
    gives (step (load [(0x0200, 0x8D), (0x0201, 0x00), (0x0202, 0x04)] { hosted with a := 0x77, clk := 9 }))
      (fun t => t.hostLog == [.write 1 0x0400 9 0x77] && t.flat 0x0400 == 0x00 && t.clk == 13) = true := by decide

/-- Rules R53 and R56: a load from a handler block takes the host's answer, whatever it is. -/
theorem test_handler_read :
    gives (step (load [(0x0200, 0xAD), (0x0201, 0x00), (0x0202, 0x04)] hosted))
      (fun t => t.hostLog.length == 1 && t.draws == 1 && t.clk == 4) = true := by decide

/-- An opcode-table word placed at the PC is the next instruction (log entry 9): of 64 only CMOS has an effect, of 07 NMOS. -/
theorem test_placed_word :
    decodeTableWord 16 0x4064 = some (.stz (.zp 0x40)) ∧ decodeTableWord 8 0x07 = some (.slo (.zp 0x00)) ∧
      gives (step ((start .nmos).withFetchWord 16 0x80A9)) (fun t => t.pc == 0x0202 && t.a == 0x80) = true := by decide

/-! ### The hypotheses of the statements can be met -/

theorem test_witness_well_formed : WellFormed .nmos (.jam 0xF2 0xFF) ∧ WellFormed .cmos (.nopBad 0x5C (.three 0xFFFF)) := by
  decide

theorem test_witness_three_bytes : 3 ≤ ([0x00, 0xFF, 0xFF] : List Byte).length := by decide

theorem test_witness_step :
    let s := load [(0xFFFF, 0xA9), (0x0000, 0x41)] { start .nmos with pc := 0xFFFF }
    s.halted = false ∧ (∀ k : Nat, k < 2 → s.params.isFlat (s.pc + BitVec.ofNat 16 k) = true) ∧
      decode s.params.variant [s.flat s.pc, s.flat (s.pc + 1), s.flat (s.pc + 2)] = .ok (.lda (.imm 0x41), [0x00]) := by decide

/-- An opcode byte in flat memory whose operand byte lies in a handler block: the operand is the host's answer. -/
theorem test_witness_step_handler :
    let s := load [(0x03FF, 0xA9)] { hosted with pc := 0x03FF }
    let op := memRead s.pc s
    let b1 := memRead (s.pc + 1) op.2
    let b2 := memRead (s.pc + 2) b1.2
    s.halted = false ∧ s.params.isFlat (s.pc + 1) = false ∧
      decode s.params.variant [op.1, b1.1, b2.1] = .ok (.lda (.imm b1.1), [b2.1]) := ⟨by decide, by decide, rfl⟩

theorem test_witness_halted : stuck.halted = true ∧ (start .nmos).halted = false := by decide

/-- A sound state. -/
theorem test_witness_sound : (start .cmos).Inv := ⟨by decide, by decide, by decide⟩

/-- A sound halted state, with blocks of the host's. -/
theorem test_witness_sound_halted : stuck.Inv ∧ hosted.Inv :=
  ⟨⟨by decide, by decide, by decide⟩, ⟨by decide, by decide, by decide⟩⟩

theorem test_witness_transition_step :
    Transition (load [(0x0200, 0xEA)] (start .nmos)) { load [(0x0200, 0xEA)] (start .nmos) with pc := 0x0201, clk := 2 } :=
  .step rfl

theorem test_witness_transition_host : Transition (start .nmos) { start .nmos with a := 0xFF } :=
  .host (.writeA 0xFF) rfl

theorem test_witness_calls_hook : Instr.callsHook .cli = true ∧ Instr.callsHook .nop = false := by decide

/-- A next state of an instruction that writes nothing but PC and `clk`. -/
theorem test_witness_exec :
    exec .nop (start .nmos) = .next { start .nmos with pc := 0x0201, clk := 2 } ∧ Instr.writesMemory .nop = false ∧
      Instr.writesA .nop = false ∧ Instr.writesX .nop = false ∧ Instr.writesY .nop = false ∧ Instr.writesSp .nop = false ∧
      Instr.writesN .nop = false ∧ Instr.writesV .nop = false ∧ Instr.writesD .nmos .nop = false ∧
      Instr.writesI .nop = false ∧ Instr.writesZ .nop = false ∧ Instr.writesC .nop = false := ⟨rfl, by decide⟩

theorem test_witness_all_flat : (start .nmos).AllFlat := fun _ => rfl

theorem test_witness_open_parameters :
    (match (Instr.arr 0xFF) with
      | .lxa _ | .xaa _ | .ahx _ | .tas _ | .shy _ | .shx _ => False
      | _ => True) := trivial

/-- Both sides of a block's edge. -/
theorem test_witness_blocks :
    (0x03FF : Word).toNat / hosted.params.blockSize ∉ hosted.params.handlerBlocks ∧
      (0x0400 : Word).toNat / hosted.params.blockSize ∈ hosted.params.handlerBlocks := by decide

theorem test_witness_flat_pair : hosted.params.isFlat 0x03FF = true ∧ hosted.params.isFlat 0x0000 = true := by decide

theorem test_witness_params : hosted.params.wf = true ∧ hosted.halted = false ∧ (start .nmos).params.wf = true := by decide

theorem test_witness_modes_without_cross : (EaMode.zpX 0xFF).isIn [.absX, .absY, .indY] = false := by decide

theorem test_witness_bcd : isBcd 0x99 ∧ isBcd 0x00 := by unfold isBcd; decide

theorem test_witness_zero_page_operand :
    (EaMode.zpX 0xFF).isIn [.zp, .zpX, .zpY] = true ∧ hosted.params.wf = true := by decide

theorem test_witness_handler_operand :
    (EaMode.abs 0x0400).isIn [.zp, .zpX, .zpY] = false ∧
      hosted.params.isFlat ((EaMode.abs 0x0400).resolve hosted).ea = false := by decide

theorem test_witness_combined : (start .nmos).params.variant = .nmos := rfl

theorem test_witness_interrupts :
    (start .nmos).params.wf = true ∧ (start .nmos).halted = false ∧ (start .nmos).p.i = false ∧
      ({ start .nmos with p := statusLoad 0x04 } : State).p.i = true := by decide

/-- Each clause of the priority rule, on the requests nearest its neighbours. -/
theorem test_witness_priority :
    boundaryEvent { reset := true, nmi := true, irq := true } stuck = some .reset ∧
      boundaryEvent { reset := false, nmi := true, irq := true } stuck = none ∧
      boundaryEvent { reset := false, nmi := true, irq := true } (start .nmos) = some .nmi ∧
      boundaryEvent { reset := false, nmi := false, irq := true } (start .nmos) = some .irq ∧
      boundaryEvent { reset := false, nmi := false, irq := true } { start .nmos with p := statusLoad 0x04 } = none ∧
      boundaryEvent { reset := false, nmi := false, irq := false } (start .nmos) = none := by decide

theorem test_witness_reset :
    (start .cmos).params.isFlat 0xFFFC = true ∧ (start .cmos).params.isFlat 0xFFFD = true ∧
      (start .cmos).params.variant = .cmos ∧ hosted.params.isFlat 0xFFFC = false ∧ hosted.params.isFlat 0xFFFD = false := by
  decide

/-- Rules R55, R56 and R550: a reset vector in a handler block is two answers of the host, low byte first. -/
theorem test_reset_vector_of_the_host :
    gives (hostEvent .reset hosted)
      (fun t => t.p.i && !t.p.d && !t.halted && t.clk == 0 &&
        match t.hostLog with
        | [.read _ high _ _, .read _ low _ _] => high == 0xFFFD && low == 0xFFFC
        | _ => false) = true := by decide

end Sys2Proof.Tests
end

section
/-! Memory access (spec/20_memory.md): the dispatch of one access by the block of its address, and the three 16-bit reads
with their wraps said in the arithmetic of the rules. -/

namespace Sys2Proof.Machine

/-! ### The block dispatch -/

theorem isFlat_eq_true_iff (q : Params) (w : Word) :
    q.isFlat w = true ↔ w.toNat / q.blockSize ∉ q.handlerBlocks := by
  simp [Params.isFlat, Params.block]

theorem isFlat_eq_false_iff (q : Params) (w : Word) :
    q.isFlat w = false ↔ w.toNat / q.blockSize ∈ q.handlerBlocks := by
  simp [Params.isFlat, Params.block]

/-! ### Bytes and words as numbers -/

theorem joinBytes_toNat (hi lo : Byte) : (joinBytes hi lo).toNat = hi.toNat * 256 + lo.toNat := by
  have hlo : lo.toNat < 2 ^ 8 := lo.isLt
  rw [joinBytes, BitVec.toNat_append, ← Nat.shiftLeft_add_eq_or_of_lt hlo, Nat.shiftLeft_eq]

theorem hiByte_toNat (w : Word) : (hiByte w).toNat = w.toNat / 256 := by
  have := w.isLt
  simp only [hiByte, BitVec.extractLsb'_toNat, Nat.shiftRight_eq_div_pow]
  omega

theorem loByte_toNat (w : Word) : (loByte w).toNat = w.toNat % 256 := by
  simp [loByte]

theorem zext16_toNat (v : Byte) : (zext16 v).toNat = v.toNat := by
  have := v.isLt
  simp only [zext16, BitVec.toNat_setWidth]
  omega

/-- `wordPlus` with nothing added is the word of the two bytes. -/
theorem wordPlus_zero (hi lo : Byte) : wordPlus hi lo 0 = joinBytes hi lo := by
  apply BitVec.eq_of_toNat_eq
  have := hi.isLt
  have := lo.isLt
  rw [wordPlus, joinBytes_toNat, BitVec.toNat_ofNat]
  omega

/-! ### The address of the high byte -/

/-- `Read16` steps modulo 65536 (rule R59). -/
theorem word_add_one_eq (w : Word) : w + 1 = BitVec.ofNat 16 ((w.toNat + 1) % 65536) := by
  apply BitVec.eq_of_toNat_eq
  simp

/-- The step modulo 256 of `Read16Zp` and `Read16PageWrapped` (rules R60 and R61). -/
theorem byte_add_one_toNat (v : Byte) : (v + 1).toNat = (v.toNat + 1) % 256 := by
  simp

/-- `Read16PageWrapped` stays in the page of the low byte (rule R61). -/
theorem joinBytes_hiByte_loByte_add_one (w : Word) :
    joinBytes (hiByte w) (loByte w + 1) = BitVec.ofNat 16 (w.toNat / 256 * 256 + (w.toNat % 256 + 1) % 256) := by
  apply BitVec.eq_of_toNat_eq
  have := w.isLt
  rw [joinBytes_toNat, hiByte_toNat, byte_add_one_toNat, loByte_toNat, BitVec.toNat_ofNat]
  omega

/-! ### The 16-bit reads -/

theorem read16_eq (w : Word) (s : State) :
    read16 w s =
      (let lo := memRead w s
      let hi := memRead (BitVec.ofNat 16 ((w.toNat + 1) % 65536)) lo.2
      (wordPlus hi.1 lo.1 0, hi.2)) := by
  simp only [read16, word_add_one_eq, wordPlus_zero]

theorem read16Zp_eq (off : Byte) (s : State) :
    read16Zp off s = wordPlus (Memory.read s.mem ((off.toNat + 1) % 256)) (Memory.read s.mem off.toNat) 0 := by
  simp only [read16Zp, zpRead, State.flat, zext16_toNat, byte_add_one_toNat, wordPlus_zero]

theorem read16PageWrapped_eq (w : Word) (s : State) :
    read16PageWrapped w s =
      (let lo := memRead w s
      let hi := memRead (BitVec.ofNat 16 (w.toNat / 256 * 256 + (w.toNat % 256 + 1) % 256)) lo.2
      (wordPlus hi.1 lo.1 0, hi.2)) := by
  simp only [read16PageWrapped, joinBytes_hiByte_loByte_add_one, wordPlus_zero]

/-! ### The obligations -/

/-- Settles O18: whether the block of the address is listed is what `isFlat` asks, and each side has its own law of reads
and of writes. -/
theorem accessByBlock : Obligations.AccessByBlock := by
  intro s w v
  constructor
  · intro hblock
    have hflat : s.params.isFlat w = true := (isFlat_eq_true_iff s.params w).mpr hblock
    exact ⟨memRead_of_flat hflat, memWrite_of_flat hflat⟩
  · intro hblock
    have hhandler : s.params.isFlat w = false := (isFlat_eq_false_iff s.params w).mpr hblock
    exact ⟨⟨s.handlerAnswer w, memRead_of_handler hhandler⟩, memWrite_of_handler hhandler⟩

/-- Settles O20, from the three reads with the address of each high byte in the rules' arithmetic. -/
theorem sixteenBitReads : Obligations.SixteenBitReads := by
  intro s w off
  exact ⟨read16_eq w s, read16Zp_eq off s, read16PageWrapped_eq w s⟩

end Sys2Proof.Machine
end

section
/-! Arithmetic and compare (spec/42_alu.md): the flag computations said in the arithmetic of the rules, and what a read-kind
instruction leaves, given what its effect does to the registers and the flags. -/

namespace Sys2Proof.Machine

/-! ### Flags as numbers -/

theorem byte_getLsbD_seven (v : Byte) : v.getLsbD 7 = decide (128 ≤ v.toNat) :=
  (BitVec.msb_eq_getLsbD_last v).symm.trans (BitVec.msb_eq_decide v)

theorem byte_beq_eq_decide (v w : Byte) : (v == w) = decide (v.toNat = w.toNat) := by
  rw [Bool.beq_eq_decide_eq, decide_eq_decide, BitVec.toNat_inj]

/-- The mask of bit 7 leaves a nonzero byte exactly when bit 7 is set. -/
theorem and_bit_seven_ne_zero (v : Byte) : (v &&& 0x80 != 0) = v.getLsbD 7 := by
  change (v &&& BitVec.twoPow 8 7 != 0) = v.getLsbD 7
  rw [BitVec.and_twoPow]
  cases v.getLsbD 7 <;> rfl

theorem bitNat_le_one (c : Bool) : bitNat c ≤ 1 := by
  cases c <;> decide

/-! ### Addition -/

/-- V of an addition: the operands have one sign and the result the other (rule R200). -/
theorem addOverflow_eq (a m res : Byte) :
    addOverflow a m res =
      decide ((128 ≤ a.toNat ↔ 128 ≤ m.toNat) ∧ ¬(128 ≤ a.toNat ↔ 128 ≤ res.toNat)) := by
  have hbits : addOverflow a m res =
      (!(a.getLsbD 7 ^^ m.getLsbD 7) && (a.getLsbD 7 ^^ res.getLsbD 7)) := by
    rw [addOverflow, and_bit_seven_ne_zero]
    simp only [BitVec.getLsbD_and, BitVec.getLsbD_not, BitVec.getLsbD_xor, Nat.reduceLT, decide_true, Bool.true_and]
  rw [hbits, byte_getLsbD_seven, byte_getLsbD_seven, byte_getLsbD_seven]
  simp only [Bool.decide_and, decide_not, Bool.decide_iff_dist]
  cases decide (128 ≤ a.toNat) <;> simp

theorem adcBinary_res_toNat (a m : Byte) (c : Bool) :
    (adcBinary a m c).res.toNat = (a.toNat + m.toNat + bitNat c) % 256 := by
  simp [adcBinary]

theorem adcBinary_n (a m : Byte) (c : Bool) :
    (adcBinary a m c).n = decide (128 ≤ (adcBinary a m c).res.toNat) := byte_getLsbD_seven _

theorem adcBinary_z (a m : Byte) (c : Bool) :
    (adcBinary a m c).z = decide ((adcBinary a m c).res.toNat = 0) := byte_beq_eq_decide _ 0

theorem adcBinary_v (a m : Byte) (c : Bool) :
    (adcBinary a m c).v = decide ((128 ≤ a.toNat ↔ 128 ≤ m.toNat) ∧
      ¬(128 ≤ a.toNat ↔ 128 ≤ (adcBinary a m c).res.toNat)) := addOverflow_eq a m _

/-- A sum of two signed bytes and a carry leaves the signed range exactly when the operands have one sign and the sum
modulo 256 has the other. -/
theorem signedSum_overflow_iff (a m : Byte) (c : Bool) :
    ((128 ≤ a.toNat ↔ 128 ≤ m.toNat) ∧ ¬(128 ≤ a.toNat ↔ 128 ≤ (a.toNat + m.toNat + bitNat c) % 256)) ↔
      (signed a + signed m + bitNat c < -128 ∨ 127 < signed a + signed m + bitNat c) := by
  have ha := a.isLt
  have hm := m.isLt
  have hc := bitNat_le_one c
  unfold signed
  split <;> split <;> omega

/-- Settles O30: each flag is read off the result's number, and V's sign rule is the overflow of the signed sum. -/
theorem binaryAddition : Obligations.BinaryAddition := by
  intro a m c
  have hres := adcBinary_res_toNat a m c
  have hv := adcBinary_v a m c
  rw [hres] at hv
  refine ⟨hres, rfl, ?_, ?_, hv, ?_⟩
  · rw [adcBinary_n, hres]
  · rw [adcBinary_z, hres]
  · rw [hv, decide_eq_decide]
    exact signedSum_overflow_iff a m c

/-! ### A read-kind instruction -/

theorem State.advance_eq (s : State) (len : Nat) : s.advance len = { s with pc := pcAfter s len } := by
  have hpc : s.pc + BitVec.ofNat 16 len = pcAfter s len := by
    apply BitVec.eq_of_toNat_eq
    simp [pcAfter]
  rw [State.advance, hpc, State.setPc]

/-- A read does not depend on PC, and leaves it where it is. -/
theorem memRead_advance (w : Word) (n : Nat) (s : State) :
    memRead w (s.advance n) = ((memRead w s).1, (memRead w s).2.advance n) := by
  cases hflat : s.params.isFlat w with
  | true => rw [memRead_of_flat hflat, memRead_of_flat (s := s.advance n) hflat]; rfl
  | false => rw [memRead_of_handler hflat, memRead_of_handler (s := s.advance n) hflat]; rfl

theorem EaMode.load_advance (m : EaMode) (w : Word) (n : Nat) (s : State) :
    m.load w (s.advance n) = ((m.load w s).1, (m.load w s).2.advance n) := by
  unfold EaMode.load
  split
  · rfl
  · exact memRead_advance w n s

theorem ReadOp.load_advance (r : ReadOp) (n : Nat) (s : State) :
    r.load (s.advance n) = ((r.load s).1, (r.load s).2.advance n) := by
  cases r with
  | imm b => rfl
  | mem m => simp only [ReadOp.load, EaMode.resolve_advance, EaMode.load_advance]

/-- Reading the operand changes the record of the host's calls and the count of draws alone. -/
theorem ReadOp.load_snd (r : ReadOp) (s : State) :
    (r.load s).2 = { s with hostLog := (r.load s).2.hostLog, draws := (r.load s).2.draws } := by
  rw [State.mk.injEq]
  simp

/-- A read-kind instruction whose effect writes A, X, Y and the flags alone leaves the state `afterRead` says. -/
theorem readInstr_eq_afterRead {r : ReadOp} {extra : Nat} {f : Byte → State → State} {s : State} {a x y : Byte}
    {p : Flags}
    (hf : ∀ t, t = (r.load s).2.advance (lengthOf r.operands) →
      f (r.load s).1 t = { t with a := a, x := x, y := y, p := p }) :
    readInstr r extra f s = .next (afterRead r extra s a x y p) := by
  rw [readInstr_next, ReadOp.load_advance, hf _ rfl, State.advance_eq, ReadOp.load_snd]
  rfl

/-! ### Compare -/

/-- The model's compare is the one of rule R202. -/
theorem Flags.compare_eq_compared (p : Flags) (r m : Byte) : p.compare r m = compared p r m := by
  have hn : (r - m).getLsbD 7 = decide (128 ≤ (r.toNat + 256 - m.toNat) % 256) := by
    have := m.isLt
    rw [byte_getLsbD_seven, BitVec.toNat_sub, decide_eq_decide]
    omega
  rw [Flags.compare, hn, byte_beq_eq_decide, compared]

/-- A compare of a register that the operand's read and the move of PC leave alone. -/
theorem readInstr_compare (reg : State → Byte) (r : ReadOp) (s : State)
    (hreg : reg ((r.load s).2.advance (lengthOf r.operands)) = reg s) :
    readInstr r 0 (fun m t => t.setP (t.p.compare (reg t) m)) s =
      .next (afterRead r 0 s s.a s.x s.y (compared s.p (reg s) (r.load s).1)) := by
  apply readInstr_eq_afterRead
  rintro t rfl
  rw [hreg, Flags.compare_eq_compared, State.mk.injEq]
  simp

/-- Settles O35: the three compares are one read-kind frame, each with its own register. -/
theorem compareInstructions : Obligations.CompareInstructions := by
  intro r s
  exact ⟨readInstr_compare State.a r s (by simp), readInstr_compare State.x r s (by simp),
    readInstr_compare State.y r s (by simp)⟩

end Sys2Proof.Machine
end

section
/-! Decoder and encoder (spec/30_encoding.md). The facts about the two tables are read off each table whole; one byte's fact
is then the entry at its place. The round trips follow. -/

namespace Sys2Proof

/-! ### Operand bytes -/

theorem joinBytes_hiByte_loByte (w : Word) : joinBytes (hiByte w) (loByte w) = w := by
  apply BitVec.eq_of_toNat_eq
  rw [Machine.joinBytes_toNat, Machine.hiByte_toNat, Machine.loByte_toNat]
  omega

theorem hiByte_joinBytes (hi lo : Byte) : hiByte (joinBytes hi lo) = hi := by
  apply BitVec.eq_of_toNat_eq
  have := lo.isLt
  rw [Machine.hiByte_toNat, Machine.joinBytes_toNat]
  omega

theorem loByte_joinBytes (hi lo : Byte) : loByte (joinBytes hi lo) = lo := by
  apply BitVec.eq_of_toNat_eq
  have := lo.isLt
  rw [Machine.loByte_toNat, Machine.joinBytes_toNat]
  omega

/-- The operand bytes of an instruction of this many bytes, from its operand as a byte and as a word. -/
def operandBytes (length : Nat) (b : Byte) (w : Word) : List Byte :=
  match length with
  | 1 => []
  | 2 => [b]
  | _ => wordBytes w

/-! ### The tables -/

/-- The dispatch table of a variant (rules R88 and R89). -/
def tableOf (v : Variant) (b : Byte) (w : Word) : List Instr :=
  match v with
  | .nmos => nmosMap b w
  | .cmos => cmosMap b w

theorem decodeOp_eq_getD (v : Variant) (op b1 b2 : Byte) :
    decodeOp v op b1 b2 = (tableOf v b1 (joinBytes b2 b1)).getD op.toNat .nop := by
  cases v <;> rfl

/-- The rows of a variant's table. -/
def rowsOf (v : Variant) (b : Byte) (w : Word) : List (List Instr) :=
  match v with
  | .nmos =>
    [nmosRow0 b w, nmosRow1 b w, nmosRow2 b w, nmosRow3 b w, nmosRow4 b w, nmosRow5 b w, nmosRow6 b w, nmosRow7 b w,
      nmosRow8 b w, nmosRow9 b w, nmosRowA b w, nmosRowB b w, nmosRowC b w, nmosRowD b w, nmosRowE b w, nmosRowF b w]
  | .cmos =>
    [cmosRow0 b w, cmosRow1 b w, cmosRow2 b w, cmosRow3 b w, cmosRow4 b w, cmosRow5 b w, cmosRow6 b w, cmosRow7 b w,
      cmosRow8 b w, cmosRow9 b w, cmosRowA b w, cmosRowB b w, cmosRowC b w, cmosRowD b w, cmosRowE b w, cmosRowF b w]

theorem tableOf_eq_flatten (v : Variant) (b : Byte) (w : Word) : tableOf v b w = (rowsOf v b w).flatten := by
  cases v <;>
    simp only [tableOf, nmosMap, cmosMap, rowsOf, List.flatten_cons, List.flatten_nil, List.append_assoc, List.append_nil]

theorem rowsOf_length (v : Variant) (b : Byte) (w : Word) : ∀ row ∈ rowsOf v b w, row.length = 16 := by
  intro row hrow
  cases v <;> fin_cases hrow <;> rfl

/-- A place in a list of rows of 16, by row and column. -/
theorem flatten_getD_row {α : Type} (rows : List (List α)) (d : α) (n : Nat) (h : ∀ row ∈ rows, row.length = 16) :
    rows.flatten.getD n d = (rows.getD (n / 16) []).getD (n % 16) d := by
  induction rows generalizing n with
  | nil => simp
  | cons row rows ih =>
    have hrow : row.length = 16 := h row List.mem_cons_self
    obtain hn | hn := Nat.lt_or_ge n 16
    · rw [List.flatten_cons, List.getD_append _ _ _ _ (hrow ▸ hn), Nat.div_eq_of_lt hn, Nat.mod_eq_of_lt hn]
      rfl
    · obtain ⟨k, rfl⟩ := Nat.exists_eq_add_of_le hn
      rw [List.flatten_cons, List.getD_append_right _ _ _ _ (hrow ▸ hn), hrow, Nat.add_sub_cancel_left,
        ih k fun r hr => h r (List.mem_cons_of_mem row hr), Nat.add_div_left k (by decide), Nat.add_mod_left]
      rfl

/-- The entry of a byte, by its high and its low digit. Lean evaluates this form at a literal byte quickly. -/
theorem decodeOp_eq_row (v : Variant) (op b1 b2 : Byte) :
    decodeOp v op b1 b2 =
      ((rowsOf v b1 (joinBytes b2 b1)).getD (op.toNat / 16) []).getD (op.toNat % 16) .nop := by
  rw [decodeOp_eq_getD, tableOf_eq_flatten]
  exact flatten_getD_row _ _ _ (rowsOf_length v b1 _)

/-- Where two functions agree along the tables of two operands, they agree on what a byte decodes to. -/
theorem decodeOp_of_map_eq {α : Type} {f g : Instr → α} {v : Variant} {op b1 b2 : Byte}
    (hnop : f .nop = g .nop) (h : (tableOf v b1 (joinBytes b2 b1)).map f = (tableOf v 0 0).map g) :
    f (decodeOp v op b1 b2) = g (decodeOp v op 0 0) := by
  have hf := List.getD_map (l := tableOf v b1 (joinBytes b2 b1)) (d := Instr.nop) (n := op.toNat) f
  have hg := List.getD_map (l := tableOf v 0 0) (d := Instr.nop) (n := op.toNat) g
  rw [h, hnop, hg] at hf
  rw [decodeOp_eq_getD, decodeOp_eq_getD]
  exact hf.symm

theorem map_wellFormed_tableOf (v : Variant) (b : Byte) (w : Word) :
    (tableOf v b w).map (wellFormed v) = (tableOf v 0 0).map (wellFormed v) := by
  cases v <;> simp only [tableOf, nmosMap, cmosMap, List.map_append] <;> rfl

theorem map_opcode_tableOf (v : Variant) (b : Byte) (w : Word) :
    (tableOf v b w).map (opcode? v) = (tableOf v 0 0).map (opcode? v) := by
  cases v <;> simp only [tableOf, nmosMap, cmosMap, List.map_append] <;> rfl

theorem map_operands_tableOf (v : Variant) (b : Byte) (w : Word) :
    (tableOf v b w).map Instr.operands = (tableOf v 0 0).map fun i => operandBytes i.length b w := by
  cases v <;> simp only [tableOf, nmosMap, cmosMap, List.map_append] <;> rfl

/-! ### What a byte decodes to -/

theorem decodeOp_wellFormed (v : Variant) (op b1 b2 : Byte) : WellFormed v (decodeOp v op b1 b2) := by
  have hclosed : ∀ v (op : Byte), wellFormed v (decodeOp v op 0 0) = true := by
    intro v
    cases v <;> decide
  exact (decodeOp_of_map_eq rfl (map_wellFormed_tableOf v _ _)).trans (hclosed v op)

theorem opcode_decodeOp (v : Variant) (op b1 b2 : Byte) : opcode? v (decodeOp v op b1 b2) = some op := by
  have hclosed : ∀ v (op : Byte), opcode? v (decodeOp v op 0 0) = some op := by
    intro v
    cases v <;> decide
  exact (decodeOp_of_map_eq rfl (map_opcode_tableOf v _ _)).trans (hclosed v op)

theorem operands_decodeOp (v : Variant) (op b1 b2 : Byte) :
    (decodeOp v op b1 b2).operands = operandBytes (opLength v op) b1 (joinBytes b2 b1) :=
  decodeOp_of_map_eq (g := fun i => operandBytes i.length b1 (joinBytes b2 b1)) rfl (map_operands_tableOf v _ _)

/-- Rule R80's lengths. -/
theorem opLength_cases (v : Variant) (op : Byte) : opLength v op = 1 ∨ opLength v op = 2 ∨ opLength v op = 3 := by
  revert op
  cases v <;> decide

theorem length_operandBytes {n : Nat} (hn : n = 1 ∨ n = 2 ∨ n = 3) (b : Byte) (w : Word) :
    1 + (operandBytes n b w).length = n := by
  obtain rfl | rfl | rfl := hn <;> rfl

theorem length_decodeOp (v : Variant) (op b1 b2 : Byte) : (decodeOp v op b1 b2).length = opLength v op := by
  rw [Instr.length, operands_decodeOp, length_operandBytes (opLength_cases v op)]

/-- Settles O2: the byte of a table's entry, and the operand bytes of an entry of its length. -/
theorem encodeUndoesDecode : Obligations.EncodeUndoesDecode := by
  intro v op b1 b2
  refine ⟨decodeOp_wellFormed v op b1 b2, ?_⟩
  rw [encode, opcode_decodeOp, operands_decodeOp]
  obtain h | h | h := opLength_cases v op <;>
    simp [h, operandBytes, wordBytes, loByte_joinBytes, hiByte_joinBytes]

/-! ### What an encoding decodes to -/

/-- A memory operand with its word put together again from its bytes. -/
def EaMode.rejoin : EaMode → EaMode
  | .abs w => .abs (joinBytes (hiByte w) (loByte w))
  | .absX w => .absX (joinBytes (hiByte w) (loByte w))
  | .absY w => .absY (joinBytes (hiByte w) (loByte w))
  | m => m

theorem EaMode.rejoin_eq (m : EaMode) : m.rejoin = m := by
  cases m <;> simp only [EaMode.rejoin, joinBytes_hiByte_loByte]

theorem opcode_mem_of_listedByte {ok : Bool} {op op' : Byte} (h : listedByte ok op = some op') : ok = true ∧ op' = op := by
  cases ok with
  | false => cases h
  | true => cases h; exact ⟨rfl, rfl⟩

/-- A byte the encoder gives an undocumented NOP is that NOP's in the table (rule R421). -/
theorem decodeOp_nopUndoc {op : Byte} {f : NopForm} (h : nopUndocOk op f = true) :
    decodeOp .nmos op (f.operands.getD 0 0) (f.operands.getD 1 0) = .nopUndoc op f := by
  rw [decodeOp_eq_row]
  cases f with
  | implied | imm b | zp b | zpX b =>
    have h := List.contains_iff_mem.mp h
    fin_cases h <;> rfl
  | abs w | absX w =>
    have h := List.contains_iff_mem.mp h
    conv_rhs => rw [← joinBytes_hiByte_loByte w]
    fin_cases h <;> rfl

/-- A byte the encoder gives JAM is a JAM byte of the table (rule R422). -/
theorem decodeOp_jam {op : Byte} (h : jamOk op = true) (b : Byte) : decodeOp .nmos op b 0 = .jam op b := by
  rw [decodeOp_eq_row]
  have h := List.contains_iff_mem.mp h
  fin_cases h <;> rfl

theorem decodeOp_nopBad_one : ∀ op : Byte, nopBadOk op .one = true → decodeOp .cmos op 0 0 = .nopBad op .one := by
  decide

/-- A byte the encoder gives a bad opcode is that bad opcode's in the table (rules R461 to R466). -/
theorem decodeOp_nopBad {op : Byte} {f : BadForm} (h : nopBadOk op f = true) :
    decodeOp .cmos op (f.operands.getD 0 0) (f.operands.getD 1 0) = .nopBad op f := by
  cases f with
  | one => exact decodeOp_nopBad_one op h
  | two b =>
    have h := List.contains_iff_mem.mp h
    rw [decodeOp_eq_row]
    fin_cases h <;> rfl
  | three w =>
    have h := List.contains_iff_mem.mp h
    rw [decodeOp_eq_row]
    conv_rhs => rw [← joinBytes_hiByte_loByte w]
    fin_cases h <;> rfl

/-- The table has an instruction at the byte that the encoder gives it. -/
theorem decodeOp_of_opcode {v : Variant} {i : Instr} {op : Byte} (h : opcode? v i = some op) :
    decodeOp v op (i.operands.getD 0 0) (i.operands.getD 1 0) = i := by
  rw [decodeOp_eq_row]
  cases i with
  | lda r | ldx r | ldy r | ora r | and r | eor r | adc r | sbc r | cmp r | cpx r | cpy r =>
    cases r with
    | imm b => cases v <;> cases h <;> rfl
    | mem m =>
      conv_rhs => rw [← m.rejoin_eq]
      cases v <;> cases m <;> cases h <;> rfl
  | asl r | lsr r | rol r | ror r =>
    cases r with
    | acc => cases v <;> cases h <;> rfl
    | mem m =>
      conv_rhs => rw [← m.rejoin_eq]
      cases v <;> cases m <;> cases h <;> rfl
  | sta m | stx m | sty m | stz m | bit m | inc m | dec m | tsb m | trb m | slo m | rla m | sre m | rra m | dcp m | isb m
  | sax m | lax m | ahx m =>
    conv_rhs => rw [← m.rejoin_eq]
    cases v <;> cases m <;> cases h <;> rfl
  | jmp m =>
    cases m with
    | abs w | ind w | indX w =>
      conv_rhs => rw [← joinBytes_hiByte_loByte w]
      cases v <;> cases h <;> rfl
  | jsr w | las w | tas w | shy w | shx w =>
    conv_rhs => rw [← joinBytes_hiByte_loByte w]
    cases v <;> cases h <;> rfl
  | nopUndoc op' f =>
    obtain ⟨hok, rfl⟩ := opcode_mem_of_listedByte h
    obtain ⟨hv, hop⟩ := Bool.and_eq_true_iff.mp hok
    cases v <;> cases hv
    rw [← decodeOp_eq_row]
    exact decodeOp_nopUndoc hop
  | jam op' b =>
    obtain ⟨hok, rfl⟩ := opcode_mem_of_listedByte h
    obtain ⟨hv, hop⟩ := Bool.and_eq_true_iff.mp hok
    cases v <;> cases hv
    rw [← decodeOp_eq_row]
    exact decodeOp_jam hop b
  | nopBad op' f =>
    obtain ⟨hok, rfl⟩ := opcode_mem_of_listedByte h
    obtain ⟨hv, hop⟩ := Bool.and_eq_true_iff.mp hok
    cases v <;> cases hv
    rw [← decodeOp_eq_row]
    exact decodeOp_nopBad hop
  | _ => cases v <;> cases h <;> rfl

/-- Every form a variant has is given a byte (the laws of PerInstr.lean, instruction by instruction). -/
theorem opcode_isSome {v : Variant} {i : Instr} (h : WellFormed v i) : (opcode? v i).isSome = true := by
  have hlaw : Laws.Encodable.Statement i := by
    cases i
    open Laws.Encodable in
    exacts [lda _, ldx _, ldy _, sta _, stx _, sty _, stz _, tax, tay, txa, tya, tsx, txs, ora _, and _, eor _,
      adc _, sbc _, sbcEb _, cmp _, cpx _, cpy _, bit _, bitImm _, asl _, lsr _, rol _, ror _, inc _, dec _, inx,
      iny, dex, dey, ina, dea, tsb _, trb _, bpl _, bmi _, bvc _, bvs _, bcc _, bcs _, bne _, beq _, bra _, jmp _,
      jsr _, rts, pha, php, pla, plp, phx, phy, plx, ply, brk, rti, clc, sec, cli, sei, clv, cld, sed, nop, slo _,
      rla _, sre _, rra _, dcp _, isb _, sax _, lax _, lxa _, anc _, anc2b _, alr _, arr _, xaa _, axs _, las _,
      ahx _, tas _, shy _, shx _, nopUndoc _ _, jam _ _, nopBad _ _]
  exact hlaw.2 v h

/-! ### Decoding a list of bytes -/

/-- An opcode byte with the operand bytes it asks for is one instruction, whatever follows. -/
theorem decode_cons_append (v : Variant) {op : Byte} {operands : List Byte} (rest : List Byte)
    (h : opLength v op = 1 + operands.length) :
    decode v (op :: (operands ++ rest)) = .ok (decodeOp v op (operands.getD 0 0) (operands.getD 1 0), rest) := by
  match operands with
  | [] => simp [decode, h]
  | [b1] => simp [decode, h]
  | [b1, b2] => simp [decode, h]
  | _ :: _ :: _ :: _ =>
    have := opLength_cases v op
    simp only [List.length_cons] at h
    omega

/-- Settles O1: the encoder's byte finds the instruction in the table, and its operand bytes are as many as that byte asks
for. -/
theorem decodeUndoesEncode : Obligations.DecodeUndoesEncode := by
  intro v i rest hwf
  obtain ⟨op, hop⟩ := Option.isSome_iff_exists.mp (opcode_isSome hwf)
  have hi : decodeOp v op (i.operands.getD 0 0) (i.operands.getD 1 0) = i := decodeOp_of_opcode hop
  have hlen : opLength v op = 1 + i.operands.length := by
    rw [← length_decodeOp v op (i.operands.getD 0 0) (i.operands.getD 1 0), hi, Instr.length]
  rw [encode, hop, List.cons_append, decode_cons_append v rest hlen, hi]

/-- Settles O3: the bytes after the opcode split where its operand ends. -/
theorem everyByteDecodes : Obligations.EveryByteDecodes := by
  intro v bytes hbytes
  match bytes, hbytes with
  | op :: tail, hbytes =>
    have hlen := opLength_cases v op
    simp only [List.length_cons] at hbytes
    have hoperands : opLength v op = 1 + (tail.take (opLength v op - 1)).length := by
      rw [List.length_take]
      omega
    obtain ⟨b1, b2, hdecode⟩ : ∃ b1 b2,
        decode v (op :: (tail.take (opLength v op - 1) ++ tail.drop (opLength v op - 1))) =
          .ok (decodeOp v op b1 b2, tail.drop (opLength v op - 1)) := ⟨_, _, decode_cons_append v _ hoperands⟩
    rw [List.take_append_drop] at hdecode
    refine ⟨decodeOp v op b1 b2, decodeOp_wellFormed v op b1 b2, hdecode.trans ?_⟩
    obtain ⟨k, hk⟩ : ∃ k, opLength v op = k + 1 := ⟨opLength v op - 1, by omega⟩
    rw [length_decodeOp, hk, List.drop_succ_cons, Nat.add_sub_cancel]

/-- Settles O4. -/
theorem exampleWordsDecode : Obligations.ExampleWordsDecode := by
  unfold Obligations.ExampleWordsDecode
  decide

end Sys2Proof
end

section
/-! Numbers (spec/10_state.md, spec/42_alu.md): the machine's bit operations on bytes and flags said with the quotients and
remainders of the rules. -/

namespace Sys2Proof.Machine

/-! ### Bits of a byte -/

theorem low_digit_toNat (v : Byte) : (v &&& 0x0F).toNat = v.toNat % 16 :=
  Nat.and_two_pow_sub_one_eq_mod v.toNat 4

theorem high_digit_toNat : ∀ v : Byte, (v &&& 0xF0).toNat = v.toNat / 16 * 16 := by decide

theorem shift_four_toNat (v : Byte) : (v >>> 4).toNat = v.toNat / 16 := by
  rw [BitVec.toNat_ushiftRight, Nat.shiftRight_eq_div_pow]

theorem byte_getLsbD_zero (v : Byte) : v.getLsbD 0 = decide (v.toNat % 2 = 1) := by
  rw [BitVec.getLsbD, Nat.testBit_zero]

theorem byte_getLsbD_six (v : Byte) : v.getLsbD 6 = decide (64 ≤ v.toNat % 128) := by
  rw [BitVec.getLsbD, Nat.testBit_eq_decide_div_mod_eq, decide_eq_decide]
  omega

theorem nat_testBit_seven (n : Nat) : n.testBit 7 = decide (128 ≤ n % 256) := by
  rw [Nat.testBit_eq_decide_div_mod_eq, decide_eq_decide]
  omega

theorem byte_beq_zero (v : Byte) : (v == 0) = decide (v.toNat = 0) := byte_beq_eq_decide v 0

theorem byte_not_toNat (v : Byte) : (~~~v).toNat = 255 - v.toNat := BitVec.toNat_not

/-- Two digits put in one byte. -/
theorem digits_toNat {lo hi : Byte} (hlo : lo.toNat < 16) (hhi : hi.toNat < 16) :
    (lo ||| (hi <<< 4)).toNat = hi.toNat * 16 + lo.toNat := by
  have hlo' : lo.toNat < 2 ^ 4 := hlo
  have hshift : hi.toNat <<< 4 % 2 ^ 8 = hi.toNat <<< 4 := by
    rw [Nat.shiftLeft_eq]
    omega
  rw [BitVec.toNat_or, BitVec.toNat_shiftLeft, hshift, Nat.or_comm, ← Nat.shiftLeft_add_eq_or_of_lt hlo',
    Nat.shiftLeft_eq]

/-! ### Flags of a result -/

/-- `SetNZ` (rule R26). -/
theorem Flags.setNZ_eq_nz (p : Flags) (v : Byte) : p.setNZ v = nz p v := by
  rw [Flags.setNZ, byte_getLsbD_seven, byte_beq_zero, nz]

/-- The flags of a shift or rotate (rules R251 to R254). -/
theorem Flags.setShift_eq_nzc (p : Flags) (r : ShiftResult) {c : Prop} [Decidable c] (hc : r.c = decide c) :
    p.setShift r = nzc p r.res c := by
  rw [Flags.setShift, Flags.setNZ_eq_nz, hc]
  rfl

theorem Flags.testZ_eq (p : Flags) (a m : Byte) : p.testZ a m = { p with z := decide ((a &&& m).toNat = 0) } := by
  rw [Flags.testZ, byte_beq_zero]

theorem Flags.bitTest_eq (p : Flags) (a m : Byte) :
    p.bitTest a m =
      { p with
        n := decide (128 ≤ m.toNat)
        v := decide (64 ≤ m.toNat % 128)
        z := decide ((a &&& m).toNat = 0) } := by
  rw [Flags.bitTest, byte_getLsbD_seven, byte_getLsbD_six, byte_beq_zero]

/-! ### Steps and shifts of a byte -/

theorem byte_add_one (v : Byte) : v + 1 = incByte v := by
  apply BitVec.eq_of_toNat_eq
  simp [incByte]

theorem byte_sub_one (v : Byte) : v - 1 = decByte v := by
  apply BitVec.eq_of_toNat_eq
  have := v.isLt
  simp only [decByte, BitVec.toNat_sub, BitVec.toNat_ofNat, BitVec.ofNat_eq_ofNat]
  omega

theorem incByte_decByte (v : Byte) : incByte (decByte v) = v := by
  rw [← byte_add_one, ← byte_sub_one, BitVec.sub_add_cancel]

theorem shiftAsl_eq (v : Byte) : shiftAsl v = { res := aslByte v, c := decide (128 ≤ v.toNat) } := by
  have hres : v <<< 1 = aslByte v := by
    apply BitVec.eq_of_toNat_eq
    simp [aslByte, Nat.shiftLeft_eq]
  rw [shiftAsl, hres, byte_getLsbD_seven]

theorem shiftLsr_eq (v : Byte) : shiftLsr v = { res := lsrByte v, c := decide (v.toNat % 2 = 1) } := by
  have hres : v >>> 1 = lsrByte v := by
    apply BitVec.eq_of_toNat_eq
    have := v.isLt
    simp only [lsrByte, BitVec.toNat_ushiftRight, Nat.shiftRight_eq_div_pow, BitVec.toNat_ofNat]
    omega
  rw [shiftLsr, hres, byte_getLsbD_zero]

theorem shiftRol_eq (v : Byte) (c : Bool) :
    shiftRol v c = { res := rolByte v c, c := decide (128 ≤ v.toNat) } := by
  have hres : (v <<< 1) ||| flagBit c 0 = rolByte v c := by
    revert v c
    decide
  rw [shiftRol, hres, byte_getLsbD_seven]

/-- The byte of a rotate right, which ARR forms too (rules R254 and R412). -/
theorem rotateRight_eq (v : Byte) (c : Bool) : (v >>> 1) ||| flagBit c 7 = rorByte v c := by
  revert v c
  decide

theorem shiftRor_eq (v : Byte) (c : Bool) :
    shiftRor v c = { res := rorByte v c, c := decide (v.toNat % 2 = 1) } := by
  rw [shiftRor, rotateRight_eq, byte_getLsbD_zero]

/-! ### The status byte -/

theorem statusImage_toNat (p : Flags) (brk : Bool) :
    (statusImage brk p).toNat =
      bitNat p.n * 128 + bitNat p.v * 64 + 32 + bitNat brk * 16 + bitNat p.d * 8 + bitNat p.i * 4 + bitNat p.z * 2 +
        bitNat p.c := by
  have hbits : ∀ n v d i z c brk : Bool, (statusImage brk { n, v, d, i, z, c }).toNat =
      bitNat n * 128 + bitNat v * 64 + 32 + bitNat brk * 16 + bitNat d * 8 + bitNat i * 4 + bitNat z * 2 + bitNat c := by
    decide
  exact hbits p.n p.v p.d p.i p.z p.c brk

/-- Loading a status image gives the flags back, whatever its break bit (rule R25). -/
@[simp] theorem statusLoad_statusImage (p : Flags) (brk : Bool) : statusLoad (statusImage brk p) = p := by
  have hbits : ∀ n v d i z c brk : Bool, statusLoad (statusImage brk { n, v, d, i, z, c }) = { n, v, d, i, z, c } := by
    decide
  exact hbits p.n p.v p.d p.i p.z p.c brk

/-- Settles O22, over the seven bits of an image. -/
theorem statusImageBits : Obligations.StatusImageBits := by
  intro p brk v
  exact ⟨statusImage_toNat p brk, rfl, statusLoad_statusImage p brk⟩

/-! ### Subtraction -/

/-- V of a subtraction is that of adding the complement. -/
theorem subOverflow_eq_addOverflow_not (a m res : Byte) : subOverflow a m res = addOverflow a (~~~m) res := by
  have hxor : ~~~(a ^^^ ~~~m) = a ^^^ m := by
    ext
    simp
  rw [subOverflow, addOverflow, hxor]

/-- A subtraction is the addition of the complement (rule R201). -/
theorem sbcBinary_eq_adcBinary_not (a m : Byte) (c : Bool) : sbcBinary a m c = adcBinary a (~~~m) c := by
  have ha := a.isLt
  have hm := m.isLt
  have hc := bitNat_le_one c
  have hres : BitVec.ofInt 8 (sbcDifference a m c) = BitVec.ofNat 8 (a.toNat + (~~~m).toNat + bitNat c) := by
    apply BitVec.eq_of_toNat_eq
    rw [BitVec.toNat_ofInt, BitVec.toNat_ofNat, byte_not_toNat, sbcDifference]
    omega
  have hcarry : decide (0 ≤ sbcDifference a m c) = decide (a.toNat + (~~~m).toNat + bitNat c > 0xFF) := by
    rw [decide_eq_decide, byte_not_toNat, sbcDifference]
    omega
  simp only [sbcBinary, adcBinary, hres, hcarry, subOverflow_eq_addOverflow_not]

theorem signed_not (m : Byte) : signed (~~~m) = -1 - signed m := by
  have := m.isLt
  simp only [signed, byte_not_toNat]
  split <;> split <;> omega

/-- Settles O31, from the addition of the complement. -/
theorem binarySubtraction : Obligations.BinarySubtraction := by
  intro a m c
  have ha := a.isLt
  have hm := m.isLt
  have hc := bitNat_le_one c
  obtain ⟨hres, hcarry, hn, hz, hv, hexact⟩ := binaryAddition a (~~~m) c
  simp only [byte_not_toNat, signed_not] at hres hcarry hn hz hv hexact
  simp only [sbcBinary_eq_adcBinary_not, hres, hcarry, hn, hz, decide_eq_decide]
  refine ⟨by omega, by omega, by omega, by omega, ?_, ?_, trivial⟩
  · rw [hv, decide_eq_decide]
    omega
  · rw [hexact, decide_eq_decide]
    omega

/-! ### Decimal addition -/

/-- A low digit sum past 9 carries into the next digit (rule R207). -/
theorem adcLowDigit_eq (a m : Byte) (c : Bool) :
    adcLowDigit a m c =
      if a.toNat % 16 + m.toNat % 16 + bitNat c > 9 then (a.toNat % 16 + m.toNat % 16 + bitNat c - 10) % 16 + 16
      else a.toNat % 16 + m.toNat % 16 + bitNat c := by
  have hor : ∀ n : Nat, (n &&& 0x0F) ||| 0x10 = n % 16 + 16 := by
    intro n
    have hlow : n &&& 0x0F = n % 16 := Nat.and_two_pow_sub_one_eq_mod n 4
    have hlt : n % 16 < 2 ^ 4 := Nat.mod_lt n (by decide)
    rw [hlow, Nat.or_comm, Nat.add_comm]
    exact (Nat.two_pow_add_eq_or_of_lt hlt 1).symm
  simp only [adcLowDigit, low_digit_toNat, hor]

/-- Settles O34: the digits of the intermediate, and each flag read off its number. -/
theorem nmosDecimalIntermediate : Obligations.NmosDecimalIntermediate := by
  intro a m c
  refine ⟨?_, ?_, ?_, ?_, ?_⟩
  · simp only [adcDecimalNmos, adcIntermediate, adcLowDigit_eq, high_digit_toNat, BitVec.toNat_ofNat, Nat.reducePow]
  · simp only [adcDecimalNmos, adcIntermediate, adcLowDigit_eq, high_digit_toNat]
  · simp only [adcDecimalNmos, adcIntermediate, adcLowDigit_eq, high_digit_toNat, nat_testBit_seven]
  · simp only [adcDecimalNmos, adcIntermediate, adcLowDigit_eq, high_digit_toNat, addOverflow_eq, BitVec.toNat_ofNat,
      Nat.reducePow]
  · exact Bool.beq_eq_decide_eq _ _

/-- A byte of two decimal digits writes ten times the one and the other. -/
theorem isBcd_of_digits {v : Byte} {h l : Nat} (hv : v.toNat = h * 16 + l) (hh : h ≤ 9) (hl : l ≤ 9) :
    isBcd v ∧ bcdValue v = h * 10 + l := by
  have hdiv : v.toNat / 16 = h := by omega
  have hmod : v.toNat % 16 = l := by omega
  rw [isBcd, bcdValue, hdiv, hmod]
  exact ⟨⟨hh, hl⟩, rfl⟩

/-- On BCD operands the result has the digits of the sum: `k` is the carry out of the low digit, `j` the one out of 99. -/
theorem adcDecimalNmos_digits {a m : Byte} (c : Bool) (ha : isBcd a) (hm : isBcd m) :
    ∃ j k h l : Nat, (adcDecimalNmos a m c).res.toNat = h * 16 + l ∧ h ≤ 9 ∧ l ≤ 9 ∧ j ≤ 1 ∧
      h + 10 * j = a.toNat / 16 + m.toNat / 16 + k ∧ l + 10 * k = a.toNat % 16 + m.toNat % 16 + bitNat c ∧
      (adcDecimalNmos a m c).c = decide (j = 1) := by
  obtain ⟨hres, hcarry, -⟩ := nmosDecimalIntermediate a m c
  obtain ⟨ha1, ha0⟩ := ha
  obtain ⟨hm1, hm0⟩ := hm
  have hc := bitNat_le_one c
  simp only [hcarry, decide_eq_decide]
  generalize a.toNat / 16 = a1 at *
  generalize m.toNat / 16 = m1 at *
  generalize hlow : a.toNat % 16 + m.toNat % 16 + bitNat c = low at *
  split_ifs at hres ⊢
  · exact ⟨1, 1, a1 + m1 + 1 - 10, low - 10, by omega⟩
  · exact ⟨0, 1, a1 + m1 + 1, low - 10, by omega⟩
  · exact ⟨1, 0, a1 + m1 - 10, low, by omega⟩
  · exact ⟨0, 0, a1 + m1, low, by omega⟩

theorem adcDecimalNmos_of_bcd {a m : Byte} (c : Bool) (ha : isBcd a) (hm : isBcd m) :
    isBcd (adcDecimalNmos a m c).res ∧
      bcdValue (adcDecimalNmos a m c).res = (bcdValue a + bcdValue m + bitNat c) % 100 ∧
      (adcDecimalNmos a m c).c = decide (100 ≤ bcdValue a + bcdValue m + bitNat c) := by
  obtain ⟨j, k, h, l, hres, hh, hl, hj, hhigh, hlow, hcarry⟩ := adcDecimalNmos_digits c ha hm
  obtain ⟨hbcd, hvalue⟩ := isBcd_of_digits hres hh hl
  rw [hvalue, hcarry, bcdValue, bcdValue, decide_eq_decide]
  exact ⟨hbcd, by omega, by omega⟩

/-- Settles O32: the digits' sum on BCD operands, and the CMOS flags from the result. -/
theorem decimalAddition : Obligations.DecimalAddition := by
  intro a m c
  exact ⟨adcDecimalNmos_of_bcd c, Bool.beq_eq_decide_eq _ _, rfl, rfl, rfl, byte_getLsbD_seven _, byte_beq_zero _⟩

/-! ### Decimal subtraction -/

/-- Bit 4 of a digit difference is its sign (rule R210). -/
theorem digitBorrow_eq {t : Int} (hlow : -16 ≤ t) (hhigh : t ≤ 15) : digitBorrow t = decide (t < 0) := by
  rw [digitBorrow, BitVec.getLsbD, Nat.testBit_eq_decide_div_mod_eq, BitVec.toNat_ofInt, decide_eq_decide]
  omega

theorem digitCorrect_toNat {t : Int} (hlow : -16 ≤ t) (hhigh : t ≤ 15) :
    ((digitCorrect t).toNat : Int) = (if t < 0 then t - 6 else t) % 16 := by
  rw [digitCorrect, low_digit_toNat, BitVec.toNat_ofInt, digitBorrow_eq hlow hhigh]
  simp only [decide_eq_true_eq]
  split <;> omega

/-- The low digit's difference with its borrow (rule R210). -/
def lowDifference (a m : Byte) (c : Bool) : Int := (a.toNat % 16 : Nat) - (m.toNat % 16 : Nat) - (1 - bitNat c)

/-- The high digit's difference with the low digit's borrow (rule R210). -/
def highDifference (a m : Byte) (c : Bool) : Int :=
  (a.toNat / 16 : Nat) - (m.toNat / 16 : Nat) - (if lowDifference a m c < 0 then 1 else 0)

theorem lowDifference_bounds (a m : Byte) (c : Bool) : -16 ≤ lowDifference a m c ∧ lowDifference a m c ≤ 15 := by
  have hc := bitNat_le_one c
  rw [lowDifference]
  omega

theorem highDifference_bounds (a m : Byte) (c : Bool) : -16 ≤ highDifference a m c ∧ highDifference a m c ≤ 15 := by
  have ha := a.isLt
  have hm := m.isLt
  rw [highDifference]
  split <;> omega

theorem sbcDecimalRes_eq (a m : Byte) (c : Bool) :
    sbcDecimalRes a m c = digitCorrect (lowDifference a m c) ||| (digitCorrect (highDifference a m c) <<< 4) := by
  obtain ⟨hlow, hhigh⟩ := lowDifference_bounds a m c
  have hborrow : (bitNat (digitBorrow (lowDifference a m c)) : Int) = if lowDifference a m c < 0 then 1 else 0 := by
    rw [digitBorrow_eq hlow hhigh, bitNat]
    simp
  rw [highDifference, ← hborrow]
  simp only [sbcDecimalRes, lowDifference, low_digit_toNat, shift_four_toNat]

/-- Each digit of the result is its difference, less 6 where it borrows, modulo 16 (rule R210). -/
theorem sbcDecimalRes_toNat (a m : Byte) (c : Bool) :
    ((sbcDecimalRes a m c).toNat : Int) =
      (if highDifference a m c < 0 then highDifference a m c - 6 else highDifference a m c) % 16 * 16 +
        (if lowDifference a m c < 0 then lowDifference a m c - 6 else lowDifference a m c) % 16 := by
  obtain ⟨hl, hl'⟩ := lowDifference_bounds a m c
  obtain ⟨hh, hh'⟩ := highDifference_bounds a m c
  have hlow := digitCorrect_toNat hl hl'
  have hhigh := digitCorrect_toNat hh hh'
  rw [sbcDecimalRes_eq, digits_toNat (by omega) (by omega)]
  push_cast
  rw [hlow, hhigh]

/-- A difference of decimal digits is corrected to a decimal digit: 10 more where it borrows. -/
theorem corrected_decimal_digit {d : Int} (hlow : -10 ≤ d) (hhigh : d ≤ 9) :
    ∃ k n : Nat, (if d < 0 then d - 6 else d) % 16 = n ∧ n ≤ 9 ∧ k ≤ 1 ∧ (n : Int) = d + 10 * k ∧ (k = 1 ↔ d < 0) := by
  split_ifs
  · exact ⟨1, (d + 10).toNat, by omega⟩
  · exact ⟨0, d.toNat, by omega⟩

theorem sbcDecimalNmos_of_bcd {a m : Byte} (c : Bool) (ha : isBcd a) (hm : isBcd m) :
    isBcd (sbcDecimalNmos a m c).res ∧
      (bcdValue (sbcDecimalNmos a m c).res : Int) = ((bcdValue a : Int) - bcdValue m - (1 - bitNat c)) % 100 ∧
      (sbcDecimalNmos a m c).c = decide (0 ≤ (bcdValue a : Int) - bcdValue m - (1 - bitNat c)) := by
  obtain ⟨ha1, ha0⟩ := ha
  obtain ⟨hm1, hm0⟩ := hm
  have hc := bitNat_le_one c
  have hlow : lowDifference a m c = (a.toNat % 16 : Nat) - (m.toNat % 16 : Nat) - (1 - bitNat c) := rfl
  obtain ⟨k, l, hl, hl9, hk, hlk, hk0⟩ := corrected_decimal_digit (d := lowDifference a m c) (by omega) (by omega)
  have hhigh : highDifference a m c = (a.toNat / 16 : Nat) - (m.toNat / 16 : Nat) - (k : Int) := by
    rw [highDifference]
    split_ifs <;> omega
  obtain ⟨j, h, hh, hh9, hj, hhj, hj0⟩ := corrected_decimal_digit (d := highDifference a m c) (by omega) (by omega)
  have hres : ((sbcDecimalNmos a m c).res.toNat : Int) = _ := sbcDecimalRes_toNat a m c
  rw [hl, hh] at hres
  obtain ⟨hbcd, hvalue⟩ := isBcd_of_digits (v := (sbcDecimalNmos a m c).res) (h := h) (l := l) (by omega) hh9 hl9
  have hcarry : (sbcDecimalNmos a m c).c = decide (0 ≤ sbcDifference a m c) := rfl
  rw [hvalue, hcarry, sbcDifference, bcdValue, bcdValue, decide_eq_decide]
  push_cast
  exact ⟨hbcd, by omega, by omega⟩

/-- Settles O33: the digits' difference, on BCD operands the difference of the numbers, and the flags of each variant. -/
theorem decimalSubtraction : Obligations.DecimalSubtraction := by
  intro a m c
  exact ⟨sbcDecimalNmos_of_bcd c, sbcDecimalRes_toNat a m c, rfl, rfl, rfl, rfl, rfl, rfl, rfl, byte_getLsbD_seven _,
    byte_beq_zero _⟩

end Sys2Proof.Machine
end

section
/-! Memory, stack and operands (spec/20_memory.md, spec/40_dispatch_addressing.md): a flat byte keeps its last write, the
stack of a valid map is flat, the address and the operand of each mode, and that no access depends on PC. -/

namespace Sys2Proof.Machine

/-! ### Flat bytes -/

theorem State.flat_setFlat (s : State) (w w' : Word) (v : Byte) :
    (s.setFlat w v).flat w' = if w' = w then v else s.flat w' := by
  rw [State.flat, State.setFlat_mem]
  split_ifs with hw
  · rw [hw, Memory.read_write_same]
  · exact Memory.read_write_other s.mem v fun h => hw (BitVec.eq_of_toNat_eq h)

@[simp] theorem State.flat_setSp (s : State) (w : Word) (v : Byte) : (s.setSp v).flat w = s.flat w := rfl

/-- Settles O19: a flat write is a store and a flat read gives the byte stored last. -/
theorem flatBytesKeepTheLastWrite : Obligations.FlatBytesKeepTheLastWrite := by
  intro s w w' v hw hw'
  rw [memWrite_of_flat hw, memRead_of_flat (s := s.setFlat w v) hw', memRead_of_flat hw']
  exact s.flat_setFlat w w' v

/-! ### Accesses and PC -/

/-- A write does not depend on PC, and leaves it where it is. -/
theorem memWrite_advance (w : Word) (v : Byte) (n : Nat) (s : State) :
    memWrite w v (s.advance n) = (memWrite w v s).advance n := by
  cases hflat : s.params.isFlat w with
  | true => rw [memWrite_of_flat hflat, memWrite_of_flat (s := s.advance n) hflat]; rfl
  | false => rw [memWrite_of_handler hflat, memWrite_of_handler (s := s.advance n) hflat]; rfl

theorem push8_advance (v : Byte) (n : Nat) (s : State) : push8 v (s.advance n) = (push8 v s).advance n := by
  simp only [push8, State.advance_sp, memWrite_advance]
  rfl

theorem push16_advance (w : Word) (n : Nat) (s : State) : push16 w (s.advance n) = (push16 w s).advance n := by
  simp only [push16, push8_advance]

/-! ### The stack -/

theorem stackAddr_toNat (sp : Byte) : (stackAddr sp).toNat = 0x0100 + sp.toNat := by
  rw [stackAddr, joinBytes_toNat]
  rfl

theorem stackAddr_eq (sp : Byte) : stackAddr sp = BitVec.ofNat 16 (0x0100 + sp.toNat) := by
  rw [← stackAddr_toNat, BitVec.ofNat_toNat, BitVec.setWidth_eq]

@[simp] theorem stackAddr_inj (a b : Byte) : stackAddr a = stackAddr b ↔ a = b := by
  constructor
  · intro h
    have hnat := congrArg BitVec.toNat h
    rw [stackAddr_toNat, stackAddr_toNat] at hnat
    exact BitVec.eq_of_toNat_eq (by omega)
  · exact congrArg stackAddr

/-- The stack page of a valid map is flat (rule R58). -/
theorem isFlat_stackAddr {q : Params} (h : q.wf = true) (sp : Byte) : q.isFlat (stackAddr sp) = true := by
  have := sp.isLt
  exact isFlat_of_low h (by rw [stackAddr_toNat]; omega)

theorem push8_eq (v : Byte) (s : State) :
    push8 v s = { memWrite (stackAddr s.sp) v s with sp := decByte s.sp } := by
  rw [push8, memWrite_sp, byte_sub_one]
  rfl

theorem push8_of_wf {s : State} (h : s.params.wf = true) (v : Byte) :
    push8 v s = (s.setFlat (stackAddr s.sp) v).setSp (decByte s.sp) := by
  rw [push8_eq, memWrite_of_flat (isFlat_stackAddr h s.sp)]
  rfl

theorem pop8_of_wf {s : State} (h : s.params.wf = true) :
    pop8 s = (s.flat (stackAddr (incByte s.sp)), s.setSp (incByte s.sp)) := by
  rw [pop8, byte_add_one]
  exact memRead_of_flat (isFlat_stackAddr h _)

theorem push16_of_wf {s : State} (h : s.params.wf = true) (w : Word) :
    push16 w s =
      ((s.setFlat (stackAddr s.sp) (hiByte w)).setFlat (stackAddr (decByte s.sp)) (loByte w)).setSp
        (decByte (decByte s.sp)) := by
  rw [push16, push8_of_wf h, push8_of_wf]
  · rfl
  · exact h

theorem pop16_of_wf {s : State} (h : s.params.wf = true) :
    pop16 s =
      (joinBytes (s.flat (stackAddr (incByte (incByte s.sp)))) (s.flat (stackAddr (incByte s.sp))),
        s.setSp (incByte (incByte s.sp))) := by
  rw [pop16, pop8_of_wf h]
  simp only
  rw [pop8_of_wf (s := s.setSp (incByte s.sp)) h]
  rfl

theorem byte_ne_decByte (v : Byte) : v ≠ decByte v := by
  intro h
  have hnat := congrArg BitVec.toNat h
  simp only [decByte, BitVec.toNat_ofNat] at hnat
  omega

theorem byte_ne_decByte_decByte (v : Byte) : v ≠ decByte (decByte v) := by
  intro h
  have hnat := congrArg BitVec.toNat h
  simp only [decByte, BitVec.toNat_ofNat] at hnat
  omega

/-- What was pushed is popped, with SP as it was (rule R63). -/
theorem pop16_push16 {s : State} (h : s.params.wf = true) (w : Word) :
    (pop16 (push16 w s)).1 = w ∧ (pop16 (push16 w s)).2.sp = s.sp := by
  have hpushed : (push16 w s).params.wf = true := by rwa [push16_params]
  rw [pop16_of_wf hpushed, push16_of_wf h]
  simp [State.flat_setFlat, incByte_decByte, byte_ne_decByte, joinBytes_hiByte_loByte]

theorem hiByte_eq_ofNat (w : Word) : hiByte w = BitVec.ofNat 8 (w.toNat / 256) := by
  rw [← hiByte_toNat, BitVec.ofNat_toNat, BitVec.setWidth_eq]

theorem loByte_eq_ofNat (w : Word) : loByte w = BitVec.ofNat 8 (w.toNat % 256) := by
  rw [← loByte_toNat, BitVec.ofNat_toNat, BitVec.setWidth_eq]

/-- Settles O21: each stack operation is one access at the stack pointer's byte, and in a valid map these are flat. -/
theorem stackOperations : Obligations.StackOperations := by
  intro s v w hwf
  obtain ⟨hvalue, hsp⟩ := pop16_push16 hwf w
  refine ⟨?_, ?_, ?_, ?_, hvalue, hsp⟩
  · rw [push8_eq, stackAddr_eq]
  · have hinc : (incByte s.sp).toNat = (s.sp.toNat + 1) % 256 := by simp [incByte]
    rw [pop8, byte_add_one, stackAddr_eq, hinc, State.setSp]
  · rw [push16, hiByte_eq_ofNat, loByte_eq_ofNat]
  · simp only [pop16, wordPlus_zero]

/-! ### Effective addresses -/

theorem wordPlus_zero_toNat (hi lo : Byte) : (wordPlus hi lo 0).toNat = hi.toNat * 256 + lo.toNat := by
  rw [wordPlus_zero, joinBytes_toNat]

theorem loByte_zext16 (v : Byte) : loByte (zext16 v) = v := by
  apply BitVec.eq_of_toNat_eq
  rw [loByte_toNat, zext16_toNat, Nat.mod_eq_of_lt v.isLt]

/-- The number a zero-page pointer is (rule R60), from the offset before its wrap. -/
theorem read16Zp_toNat (off : Byte) {n : Nat} (hoff : off.toNat = n % 256) (s : State) :
    (read16Zp off s).toNat =
      (Memory.read s.mem ((n + 1) % 256)).toNat * 256 + (Memory.read s.mem (n % 256)).toNat := by
  have hnext : (off.toNat + 1) % 256 = (n + 1) % 256 := by omega
  rw [read16Zp_eq, wordPlus_zero_toNat, hnext, hoff]

theorem Ea.indexed_toNat (base : Word) (index : Byte) :
    (Ea.indexed base index).ea.toNat = (base.toNat + index.toNat) % 65536 := by
  rw [Ea.indexed, BitVec.toNat_add, zext16_toNat]

/-- In the zero-page modes the operand is the flat byte (rule R128). -/
theorem operandOf_zero_page {m : EaMode} (h : m.isIn [.zp, .zpX, .zpY] = true) (s : State) :
    operandOf m s = (Memory.read s.mem (m.resolve s).ea.toNat, s) := by
  cases m with
  | zp b | zpX b | zpY b =>
    simp only [operandOf, EaMode.load, EaMode.isZeroPage, EaMode.resolve, Ea.plain, if_true, zpRead, State.flat,
      loByte_zext16]
  | abs w | absX w | absY w | ind b | indX b | indY b => cases h

/-- In the other modes the operand is one access through the block dispatch (rule R128). -/
theorem operandOf_dispatched {m : EaMode} (h : m.isIn [.zp, .zpX, .zpY] = false) (s : State) :
    operandOf m s = memRead (m.resolve s).ea s := by
  cases m with
  | zp b | zpX b | zpY b => cases h
  | abs w | absX w | absY w | ind b | indX b | indY b => rfl

theorem zero_page_ea_lt {m : EaMode} (h : m.isIn [.zp, .zpX, .zpY] = true) (s : State) :
    (m.resolve s).ea.toNat < 256 := by
  cases m with
  | zp b => exact (zext16_toNat b).trans_lt b.isLt
  | zpX b => exact (zext16_toNat (b + s.x)).trans_lt (b + s.x).isLt
  | zpY b => exact (zext16_toNat (b + s.y)).trans_lt (b + s.y).isLt
  | abs w | absX w | absY w | ind b | indX b | indY b => cases h

/-- In a valid map every mode's operand is the byte that the block dispatch reads. -/
theorem operandOf_of_wf {s : State} (h : s.params.wf = true) (m : EaMode) :
    operandOf m s = memRead (m.resolve s).ea s := by
  cases hm : m.isIn [.zp, .zpX, .zpY] with
  | false => exact operandOf_dispatched hm s
  | true =>
    have hlt := zero_page_ea_lt hm s
    rw [operandOf_zero_page hm, memRead_of_flat (isFlat_of_low h (by omega)), State.flat]

/-- Settles O23, mode by mode. -/
theorem effectiveAddresses : Obligations.EffectiveAddresses := by
  intro s b w m
  have hsum : (b + s.x).toNat = (b.toNat + s.x.toNat) % 256 := BitVec.toNat_add b s.x
  have hb : b.toNat = b.toNat % 256 := (Nat.mod_eq_of_lt b.isLt).symm
  refine ⟨zext16_toNat b, ?_, ?_, rfl, Ea.indexed_toNat w s.x, Ea.indexed_toNat w s.y, read16Zp_toNat b hb s,
    read16Zp_toNat (b + s.x) hsum s, ?_, rfl, rfl, fun hm => operandOf_zero_page hm s, fun hwf => operandOf_of_wf hwf m⟩
  · exact (zext16_toNat (b + s.x)).trans hsum
  · exact (zext16_toNat (b + s.y)).trans (BitVec.toNat_add b s.y)
  · exact (Ea.indexed_toNat _ s.y).trans (by rw [read16Zp_toNat b hb])

/-! ### Page crossing -/

theorem hiByte_bne (w w' : Word) : (hiByte w != hiByte w') = decide (w.toNat / 256 ≠ w'.toNat / 256) := by
  rw [bne, byte_beq_eq_decide, hiByte_toNat, hiByte_toNat, decide_not]

theorem Ea.indexed_cross (base : Word) (index : Byte) :
    (Ea.indexed base index).cross =
      decide (base.toNat / 256 ≠ (base.toNat + index.toNat) % 65536 / 256) := by
  rw [Ea.cross, hiByte_bne, Ea.indexed_toNat, Ea.indexed]

@[simp] theorem Ea.plain_cross (w : Word) : (Ea.plain w).cross = false := bne_self_eq_false (hiByte w)

/-- An address that nothing indexes crosses no page (rule R105). -/
theorem cross_of_plain_mode {m : EaMode} (h : m.isIn [.absX, .absY, .indY] = false) (s : State) :
    (m.resolve s).cross = false := by
  cases m with
  | absX w | absY w | indY b => cases h
  | zp b | zpX b | zpY b | abs w | ind b | indX b => exact Ea.plain_cross _

/-- Settles O24: the indexed modes compare pages, and in the others the address is its own base. -/
theorem pageCross : Obligations.PageCross := by
  intro s b w
  exact ⟨Ea.indexed_cross w s.x, Ea.indexed_cross w s.y, Ea.indexed_cross _ s.y, fun m hm => cross_of_plain_mode hm s⟩

end Sys2Proof.Machine
end

section
/-! Instructions of registers and operands (spec/41_load_store_transfer.md to spec/47_cmos_unused.md): loads, logic, arithmetic,
bit tests, transfers, register steps, flag instructions, immediate combinations, branches, jumps and instructions that do
nothing. One equation per instruction gives its next state, in the terms of the statements. -/

namespace Sys2Proof.Machine

@[simp] theorem State.setNZ_eq_setP (s : State) (v : Byte) : s.setNZ v = s.setP (nz s.p v) := by
  rw [State.setNZ, Flags.setNZ_eq_nz]

/-! ### Loads -/

/-- A read-kind instruction whose effect is known on a state of the same registers and flags. -/
theorem readInstr_eq {r : ReadOp} {extra : Nat} {f : Byte → State → State} {s : State} {a x y : Byte} {p : Flags}
    (hf : ∀ t : State, t.params = s.params → t.a = s.a → t.x = s.x → t.y = s.y → t.p = s.p →
      f (r.load s).1 t = { t with a := a, x := x, y := y, p := p }) :
    readInstr r extra f s = .next (afterRead r extra s a x y p) :=
  readInstr_eq_afterRead fun t ht => hf t (by simp [ht]) (by simp [ht]) (by simp [ht]) (by simp [ht]) (by simp [ht])

@[simp] theorem exec_lda (r : ReadOp) (s : State) :
    exec (.lda r) s = .next (afterRead r 0 s (r.load s).1 s.x s.y (nz s.p (r.load s).1)) := by
  rw [exec, execLda]
  exact readInstr_eq fun t _ _ hx hy hp => by rw [← hx, ← hy, ← hp, State.setNZ_eq_setP]; rfl

@[simp] theorem exec_ldx (r : ReadOp) (s : State) :
    exec (.ldx r) s = .next (afterRead r 0 s s.a (r.load s).1 s.y (nz s.p (r.load s).1)) := by
  rw [exec, execLdx]
  exact readInstr_eq fun t _ ha _ hy hp => by rw [← ha, ← hy, ← hp, State.setNZ_eq_setP]; rfl

@[simp] theorem exec_ldy (r : ReadOp) (s : State) :
    exec (.ldy r) s = .next (afterRead r 0 s s.a s.x (r.load s).1 (nz s.p (r.load s).1)) := by
  rw [exec, execLdy]
  exact readInstr_eq fun t _ ha hx _ hp => by rw [← ha, ← hx, ← hp, State.setNZ_eq_setP]; rfl

@[simp] theorem exec_lax (m : EaMode) (s : State) :
    exec (.lax m) s =
      .next (afterRead (.mem m) 0 s (operandOf m s).1 (operandOf m s).1 s.y (nz s.p (operandOf m s).1)) := by
  rw [exec, execLax]
  exact readInstr_eq fun t _ _ _ hy hp => by rw [← hy, ← hp, State.setNZ_eq_setP]; rfl

@[simp] theorem exec_las (w : Word) (s : State) :
    exec (.las w) s =
      .next { afterRead (.mem (.absY w)) 0 s ((operandOf (.absY w) s).1 &&& s.sp) ((operandOf (.absY w) s).1 &&& s.sp) s.y
          (nz s.p ((operandOf (.absY w) s).1 &&& s.sp)) with
        sp := (operandOf (.absY w) s).1 &&& s.sp } := by
  simp only [exec, execLas, readInstr_next, ReadOp.load_advance]
  rw [ReadOp.load_snd, State.advance_eq, lasEffect, State.setNZ_eq_setP]
  rfl

/-- Settles O25. -/
theorem loadInstructions : Obligations.LoadInstructions := by
  intro r m w s
  exact ⟨exec_lda r s, exec_ldx r s, exec_ldy r s, exec_lax m s, exec_las w s⟩

/-! ### Logic, arithmetic and bit test -/

@[simp] theorem exec_ora (r : ReadOp) (s : State) :
    exec (.ora r) s = .next (afterRead r 0 s (s.a ||| (r.load s).1) s.x s.y (nz s.p (s.a ||| (r.load s).1))) := by
  rw [exec, execOra]
  exact readInstr_eq fun t _ ha hx hy hp => by rw [← ha, ← hx, ← hy, ← hp, State.setNZ_eq_setP]; rfl

@[simp] theorem exec_and (r : ReadOp) (s : State) :
    exec (.and r) s = .next (afterRead r 0 s (s.a &&& (r.load s).1) s.x s.y (nz s.p (s.a &&& (r.load s).1))) := by
  rw [exec, execAnd]
  exact readInstr_eq fun t _ ha hx hy hp => by rw [← ha, ← hx, ← hy, ← hp, State.setNZ_eq_setP]; rfl

@[simp] theorem exec_eor (r : ReadOp) (s : State) :
    exec (.eor r) s = .next (afterRead r 0 s (s.a ^^^ (r.load s).1) s.x s.y (nz s.p (s.a ^^^ (r.load s).1))) := by
  rw [exec, execEor]
  exact readInstr_eq fun t _ ha hx hy hp => by rw [← ha, ← hx, ← hy, ← hp, State.setNZ_eq_setP]; rfl

/-- Settles O28. -/
theorem logicInstructions : Obligations.LogicInstructions := by
  intro r s
  exact ⟨exec_ora r s, exec_and r s, exec_eor r s⟩

/-- ADC's result in a state (rule R206). -/
def State.adc (s : State) (m : Byte) : FlagResult := adcResult s.params.variant s.p.d s.a m s.p.c

/-- SBC's result in a state (rule R209). -/
def State.sbc (s : State) (m : Byte) : FlagResult := sbcResult s.params.variant s.p.d s.a m s.p.c

@[simp] theorem exec_adc (r : ReadOp) (s : State) :
    exec (.adc r) s =
      .next (afterRead r (decimalExtra s) s (s.adc (r.load s).1).res s.x s.y (arith s.p (s.adc (r.load s).1))) := by
  rw [exec, execAdc]
  exact readInstr_eq fun t hq ha hx hy hp => by rw [State.adc, ← hq, ← ha, ← hx, ← hy, ← hp]; rfl

@[simp] theorem exec_sbc (r : ReadOp) (s : State) :
    exec (.sbc r) s =
      .next (afterRead r (decimalExtra s) s (s.sbc (r.load s).1).res s.x s.y (arith s.p (s.sbc (r.load s).1))) := by
  rw [exec, execSbc]
  exact readInstr_eq fun t hq ha hx hy hp => by rw [State.sbc, ← hq, ← ha, ← hx, ← hy, ← hp]; rfl

/-- Byte EB is SBC # (rule R209, decision D20). -/
@[simp] theorem exec_sbcEb (b : Byte) (s : State) :
    exec (.sbcEb b) s = .next (afterRead (.imm b) (decimalExtra s) s (s.sbc b).res s.x s.y (arith s.p (s.sbc b))) :=
  exec_sbc (.imm b) s

theorem decimalExtra_eq (s : State) : decimalExtra s = if s.params.variant = .cmos ∧ s.p.d = true then 1 else 0 := by
  cases hv : s.params.variant <;> simp [decimalExtra, hv, bitNat]

theorem State.adc_eq (s : State) (m : Byte) :
    s.adc m =
      if s.p.d = false then adcBinary s.a m s.p.c
      else if s.params.variant = .cmos then adcDecimalCmos s.a m s.p.c else adcDecimalNmos s.a m s.p.c := by
  cases hv : s.params.variant <;> cases hd : s.p.d <;> simp [State.adc, adcResult, hv, hd]

theorem State.sbc_eq (s : State) (m : Byte) :
    s.sbc m =
      if s.p.d = false then sbcBinary s.a m s.p.c
      else if s.params.variant = .cmos then sbcDecimalCmos s.a m s.p.c else sbcDecimalNmos s.a m s.p.c := by
  cases hv : s.params.variant <;> cases hd : s.p.d <;> simp [State.sbc, sbcResult, hv, hd]

/-- Settles O29: the result is picked by D and then by the variant. -/
theorem addAndSubtractInstructions : Obligations.AddAndSubtractInstructions := by
  intro r b s
  simp only [exec_adc, exec_sbc, exec_sbcEb, decimalExtra_eq, State.adc_eq, State.sbc_eq, and_self]

@[simp] theorem exec_cmp (r : ReadOp) (s : State) :
    exec (.cmp r) s = .next (afterRead r 0 s s.a s.x s.y (compared s.p s.a (r.load s).1)) := (compareInstructions r s).1

@[simp] theorem exec_cpx (r : ReadOp) (s : State) :
    exec (.cpx r) s = .next (afterRead r 0 s s.a s.x s.y (compared s.p s.x (r.load s).1)) := (compareInstructions r s).2.1

@[simp] theorem exec_cpy (r : ReadOp) (s : State) :
    exec (.cpy r) s = .next (afterRead r 0 s s.a s.x s.y (compared s.p s.y (r.load s).1)) := (compareInstructions r s).2.2

@[simp] theorem exec_bit (m : EaMode) (s : State) :
    exec (.bit m) s = .next (afterRead (.mem m) 0 s s.a s.x s.y (s.p.bitTest s.a (operandOf m s).1)) := by
  rw [exec, execBit]
  exact readInstr_eq fun t _ ha hx hy hp => by rw [← ha, ← hx, ← hy, ← hp]; rfl

@[simp] theorem exec_bitImm (b : Byte) (s : State) :
    exec (.bitImm b) s = .next (afterRead (.imm b) 0 s s.a s.x s.y (s.p.testZ s.a b)) := by
  rw [exec, execBitImm]
  exact readInstr_eq fun t _ ha hx hy hp => by rw [← ha, ← hx, ← hy, ← hp]; rfl

/-- Settles O36. -/
theorem bitTestInstructions : Obligations.BitTestInstructions := by
  intro m b s
  simp only [exec_bit, exec_bitImm, Flags.bitTest_eq, Flags.testZ_eq, and_self]

/-! ### Implied instructions -/

theorem impliedInstr_eq {cycles : Nat} {f : State → State} {s : State} {a x y sp : Byte} {p : Flags}
    (hf : ∀ t : State, t.a = s.a → t.x = s.x → t.y = s.y → t.sp = s.sp → t.p = s.p →
      f t = { t with a := a, x := x, y := y, sp := sp, p := p }) :
    impliedInstr cycles f s = .next (afterImplied cycles s a x y sp p) := by
  rw [impliedInstr_next, hf (s.advance 1) rfl rfl rfl rfl rfl, State.advance_eq]
  rfl

@[simp] theorem exec_tax (s : State) : exec .tax s = .next (afterImplied 2 s s.a s.a s.y s.sp (nz s.p s.a)) := by
  rw [exec, execTax]
  exact impliedInstr_eq fun t ha _ hy hsp hp => by rw [← ha, ← hy, ← hsp, ← hp, State.setNZ_eq_setP]; rfl

@[simp] theorem exec_tay (s : State) : exec .tay s = .next (afterImplied 2 s s.a s.x s.a s.sp (nz s.p s.a)) := by
  rw [exec, execTay]
  exact impliedInstr_eq fun t ha hx _ hsp hp => by rw [← ha, ← hx, ← hsp, ← hp, State.setNZ_eq_setP]; rfl

@[simp] theorem exec_txa (s : State) : exec .txa s = .next (afterImplied 2 s s.x s.x s.y s.sp (nz s.p s.x)) := by
  rw [exec, execTxa]
  exact impliedInstr_eq fun t _ hx hy hsp hp => by rw [← hx, ← hy, ← hsp, ← hp, State.setNZ_eq_setP]; rfl

@[simp] theorem exec_tya (s : State) : exec .tya s = .next (afterImplied 2 s s.y s.x s.y s.sp (nz s.p s.y)) := by
  rw [exec, execTya]
  exact impliedInstr_eq fun t _ hx hy hsp hp => by rw [← hx, ← hy, ← hsp, ← hp, State.setNZ_eq_setP]; rfl

@[simp] theorem exec_tsx (s : State) : exec .tsx s = .next (afterImplied 2 s s.a s.sp s.y s.sp (nz s.p s.sp)) := by
  rw [exec, execTsx]
  exact impliedInstr_eq fun t ha _ hy hsp hp => by rw [← ha, ← hy, ← hsp, ← hp, State.setNZ_eq_setP]; rfl

@[simp] theorem exec_txs (s : State) : exec .txs s = .next (afterImplied 2 s s.a s.x s.y s.x s.p) := by
  rw [exec, execTxs]
  exact impliedInstr_eq fun t ha hx hy _ hp => by rw [← ha, ← hx, ← hy, ← hp]; rfl

/-- Settles O27. -/
theorem transferInstructions : Obligations.TransferInstructions := by
  intro s
  exact ⟨exec_tax s, exec_tay s, exec_txa s, exec_tya s, exec_tsx s, exec_txs s⟩

@[simp] theorem exec_inx (s : State) :
    exec .inx s = .next (afterImplied 2 s s.a (incByte s.x) s.y s.sp (nz s.p (incByte s.x))) := by
  rw [exec, execInx]
  exact impliedInstr_eq fun t ha hx hy hsp hp => by
      rw [← ha, ← hx, ← hy, ← hsp, ← hp, State.setNZ_eq_setP, byte_add_one]; rfl

@[simp] theorem exec_iny (s : State) :
    exec .iny s = .next (afterImplied 2 s s.a s.x (incByte s.y) s.sp (nz s.p (incByte s.y))) := by
  rw [exec, execIny]
  exact impliedInstr_eq fun t ha hx hy hsp hp => by
      rw [← ha, ← hx, ← hy, ← hsp, ← hp, State.setNZ_eq_setP, byte_add_one]; rfl

@[simp] theorem exec_dex (s : State) :
    exec .dex s = .next (afterImplied 2 s s.a (decByte s.x) s.y s.sp (nz s.p (decByte s.x))) := by
  rw [exec, execDex]
  exact impliedInstr_eq fun t ha hx hy hsp hp => by
      rw [← ha, ← hx, ← hy, ← hsp, ← hp, State.setNZ_eq_setP, byte_sub_one]; rfl

@[simp] theorem exec_dey (s : State) :
    exec .dey s = .next (afterImplied 2 s s.a s.x (decByte s.y) s.sp (nz s.p (decByte s.y))) := by
  rw [exec, execDey]
  exact impliedInstr_eq fun t ha hx hy hsp hp => by
      rw [← ha, ← hx, ← hy, ← hsp, ← hp, State.setNZ_eq_setP, byte_sub_one]; rfl

@[simp] theorem exec_ina (s : State) :
    exec .ina s = .next (afterImplied 2 s (incByte s.a) s.x s.y s.sp (nz s.p (incByte s.a))) := by
  rw [exec, execIna]
  exact impliedInstr_eq fun t ha hx hy hsp hp => by
      rw [← ha, ← hx, ← hy, ← hsp, ← hp, State.setNZ_eq_setP, byte_add_one]; rfl

@[simp] theorem exec_dea (s : State) :
    exec .dea s = .next (afterImplied 2 s (decByte s.a) s.x s.y s.sp (nz s.p (decByte s.a))) := by
  rw [exec, execDea]
  exact impliedInstr_eq fun t ha hx hy hsp hp => by
      rw [← ha, ← hx, ← hy, ← hsp, ← hp, State.setNZ_eq_setP, byte_sub_one]; rfl

/-- Settles O39. -/
theorem registerIncrements : Obligations.RegisterIncrements := by
  intro s
  exact ⟨exec_inx s, exec_iny s, exec_dex s, exec_dey s, exec_ina s, exec_dea s⟩

/-- A flag instruction: it replaces the flags by a function of themselves. -/
theorem impliedInstr_setP (cycles : Nat) (g : Flags → Flags) (s : State) :
    impliedInstr cycles (fun t => t.setP (g t.p)) s = .next (afterImplied cycles s s.a s.x s.y s.sp (g s.p)) :=
  impliedInstr_eq fun t ha hx hy hsp hp => by rw [← ha, ← hx, ← hy, ← hsp, ← hp]; rfl

@[simp] theorem exec_clc (s : State) :
    exec .clc s = .next (afterImplied 2 s s.a s.x s.y s.sp { s.p with c := false }) := by
  rw [exec, execClc]
  exact impliedInstr_setP 2 (fun p => { p with c := false }) s

@[simp] theorem exec_sec (s : State) :
    exec .sec s = .next (afterImplied 2 s s.a s.x s.y s.sp { s.p with c := true }) := by
  rw [exec, execSec]
  exact impliedInstr_setP 2 (fun p => { p with c := true }) s

@[simp] theorem exec_sei (s : State) :
    exec .sei s = .next (afterImplied 2 s s.a s.x s.y s.sp { s.p with i := true }) := by
  rw [exec, execSei]
  exact impliedInstr_setP 2 (fun p => { p with i := true }) s

@[simp] theorem exec_clv (s : State) :
    exec .clv s = .next (afterImplied 2 s s.a s.x s.y s.sp { s.p with v := false }) := by
  rw [exec, execClv]
  exact impliedInstr_setP 2 (fun p => { p with v := false }) s

@[simp] theorem exec_cld (s : State) :
    exec .cld s = .next (afterImplied 2 s s.a s.x s.y s.sp { s.p with d := false }) := by
  rw [exec, execCld]
  exact impliedInstr_setP 2 (fun p => { p with d := false }) s

@[simp] theorem exec_sed (s : State) :
    exec .sed s = .next (afterImplied 2 s s.a s.x s.y s.sp { s.p with d := true }) := by
  rw [exec, execSed]
  exact impliedInstr_setP 2 (fun p => { p with d := true }) s

/-- Settles O49. -/
theorem flagInstructions : Obligations.FlagInstructions := by
  intro s
  exact ⟨exec_clc s, exec_sec s, exec_sei s, exec_clv s, exec_cld s, exec_sed s⟩

/-- CLI, whose hook is called with the charged `clk` (rule R106). -/
@[simp] theorem exec_cli (s : State) :
    exec .cli s = .next (afterImplied 2 s s.a s.x s.y s.sp { s.p with i := false }).callHook :=
  congrArg thenHook (impliedInstr_setP 2 (fun p => { p with i := false }) s)

/-! ### Immediate combinations -/

theorem immInstr_eq {f : State → State} {s : State} {a x : Byte} {p : Flags}
    (hf : ∀ t : State, t.params = s.params → t.a = s.a → t.x = s.x → t.p = s.p →
      f t = { t with a := a, x := x, p := p }) :
    immInstr f s = .next (afterImm s a x p) := by
  rw [immInstr_next, hf (s.advance 2) rfl rfl rfl rfl, State.advance_eq]
  rfl

@[simp] theorem exec_lxa (b : Byte) (s : State) :
    exec (.lxa b) s = .next (afterImm s (lxaValue b s) (lxaValue b s) (nz s.p (lxaValue b s))) := by
  rw [exec, execLxa]
  exact immInstr_eq fun t hq ha _ hp => by
    have hv : lxaValue b t = lxaValue b s := by rw [lxaValue, lxaValue, hq, ha]
    rw [State.setNZ_eq_setP, hv, ← hp]; rfl

/-- ANC's carry is bit 7 of its result (rule R410). -/
@[simp] theorem exec_anc (b : Byte) (s : State) :
    exec (.anc b) s = .next (afterImm s (s.a &&& b) s.x (nzc s.p (s.a &&& b) (128 ≤ (s.a &&& b).toNat))) := by
  rw [exec, execAnc]
  exact immInstr_eq fun t _ ha hx hp => by
      rw [← ha, ← hx, ← hp, ancEffect, Flags.setNZ_eq_nz, byte_getLsbD_seven]; rfl

@[simp] theorem exec_anc2b (b : Byte) (s : State) :
    exec (.anc2b b) s = .next (afterImm s (s.a &&& b) s.x (nzc s.p (s.a &&& b) (128 ≤ (s.a &&& b).toNat))) := exec_anc b s

@[simp] theorem exec_alr (b : Byte) (s : State) :
    exec (.alr b) s =
      .next (afterImm s (lsrByte (s.a &&& b)) s.x (nzc s.p (lsrByte (s.a &&& b)) ((s.a &&& b).toNat % 2 = 1))) := by
  rw [exec, execAlr]
  exact immInstr_eq fun t _ ha hx hp => by
      rw [← ha, ← hx, ← hp, shiftLsr_eq, Flags.setShift_eq_nzc t.p _ rfl]; rfl

@[simp] theorem exec_xaa (b : Byte) (s : State) :
    exec (.xaa b) s = .next (afterImm s (xaaValue b s) s.x (nz s.p (xaaValue b s))) := by
  rw [exec, execXaa]
  exact immInstr_eq fun t hq ha hx hp => by
    have hv : xaaValue b t = xaaValue b s := by rw [xaaValue, xaaValue, hq, ha, hx]
    rw [State.setNZ_eq_setP, hv, ← hx, ← hp]; rfl

theorem byte_sub_eq (v w : Byte) : v - w = BitVec.ofNat 8 ((v.toNat + 256 - w.toNat) % 256) := by
  apply BitVec.eq_of_toNat_eq
  have := w.isLt
  simp only [BitVec.toNat_sub, BitVec.toNat_ofNat]
  omega

/-- A compare's N and Z are those of the difference (rule R202). -/
theorem compared_eq_nzc (p : Flags) (r m : Byte) : compared p r m = nzc p (r - m) (m.toNat ≤ r.toNat) := by
  have hr := r.isLt
  have hm := m.isLt
  have hn : (128 ≤ (r.toNat + 256 - m.toNat) % 256) ↔ 128 ≤ (r - m).toNat := by
    rw [BitVec.toNat_sub]
    omega
  have hz : r.toNat = m.toNat ↔ (r - m).toNat = 0 := by
    rw [BitVec.toNat_sub]
    omega
  simp only [compared, nzc, nz, hn, hz]

@[simp] theorem exec_axs (b : Byte) (s : State) :
    exec (.axs b) s =
      .next (afterImm s s.a ((s.a &&& s.x) - b) (nzc s.p ((s.a &&& s.x) - b) (b.toNat ≤ (s.a &&& s.x).toNat))) := by
  rw [exec, execAxs]
  exact immInstr_eq fun t _ ha hx hp => by
      rw [← ha, ← hx, ← hp, Flags.compare_eq_compared, compared_eq_nzc]; rfl

/-- Settles O57. -/
theorem immediateCombinations : Obligations.ImmediateCombinations := by
  intro b s
  refine ⟨exec_lxa b s, exec_anc b s, exec_anc2b b s, exec_alr b s, exec_xaa b s, ?_⟩
  simp only [exec_axs, byte_sub_eq]

/-- ARR's result (rule R412). -/
def State.arr (s : State) (b : Byte) : FlagResult := arrResult s.p.d s.a b s.p.c

@[simp] theorem exec_arr (b : Byte) (s : State) :
    exec (.arr b) s = .next (afterImm s (s.arr b).res s.x (arith s.p (s.arr b))) := by
  rw [exec, execArr]
  exact immInstr_eq fun t _ ha hx hp => by rw [State.arr.eq_1, ← ha, ← hx, ← hp]; rfl

theorem arrBinary_eq (a b : Byte) (c : Bool) :
    arrBinary a b c =
      { res := rorByte (a &&& b) c
        n := decide (128 ≤ (rorByte (a &&& b) c).toNat)
        v := (rorByte (a &&& b) c).getLsbD 6 != (rorByte (a &&& b) c).getLsbD 5
        z := decide ((rorByte (a &&& b) c).toNat = 0)
        c := (rorByte (a &&& b) c).getLsbD 6 } := by
  simp only [arrBinary, rotateRight_eq, byte_getLsbD_seven, byte_beq_zero]

theorem arr_low_fix_iff (t : Byte) :
    ((t &&& 0x0F).toNat + (t &&& 0x01).toNat > 0x05) = (t.toNat % 16 + t.toNat % 2 > 0x05) := by
  have hbit : (t &&& 0x01).toNat = t.toNat % 2 := Nat.and_two_pow_sub_one_eq_mod t.toNat 1
  rw [low_digit_toNat, hbit]

theorem arr_high_fix_iff (t : Byte) :
    ((t &&& 0xF0).toNat + (t &&& 0x10).toNat > 0x50) =
      (t.toNat / 16 * 16 + t.toNat / 16 % 2 * 16 > 0x50) := by
  have hbit : ∀ v : Byte, (v &&& 0x10).toNat = v.toNat / 16 % 2 * 16 := by decide
  rw [high_digit_toNat, hbit]

/-- ARR's low digit correction adds 6 within the digit (rule R412). -/
theorem arr_low_fixed (r : Byte) :
    (r &&& 0xF0) ||| ((r + 0x06) &&& 0x0F) = BitVec.ofNat 8 (r.toNat / 16 * 16 + (r.toNat + 6) % 16) := by
  revert r
  decide

/-- The byte of ARR's decimal path, from the rotated byte and the two corrections (rule R412, decision D19). -/
theorem arrDecimal_res (a b : Byte) (c : Bool) :
    let t := a &&& b
    let r := rorByte t c
    let r1 : Nat := if t.toNat % 16 + t.toNat % 2 > 0x05 then r.toNat / 16 * 16 + (r.toNat + 6) % 16 else r.toNat
    (arrDecimal a b c).res =
      BitVec.ofNat 8 (if t.toNat / 16 * 16 + t.toNat / 16 % 2 * 16 > 0x50 then (r1 + 0x60) % 256 else r1) := by
  intro t r r1
  have hr1 : (if t.toNat % 16 + t.toNat % 2 > 0x05 then (r &&& 0xF0) ||| ((r + 0x06) &&& 0x0F) else r) =
      BitVec.ofNat 8 r1 := by
    rw [arr_low_fixed]
    simp only [r1]
    split_ifs
    · rfl
    · rw [BitVec.ofNat_toNat, BitVec.setWidth_eq]
  have hres : (arrDecimal a b c).res =
      if t.toNat / 16 * 16 + t.toNat / 16 % 2 * 16 > 0x50 then BitVec.ofNat 8 r1 + 0x60 else BitVec.ofNat 8 r1 := by
    rw [← hr1]
    simp only [arrDecimal, rotateRight_eq, arr_low_fix_iff, arr_high_fix_iff, decide_eq_true_eq]
    rfl
  rw [hres]
  split_ifs
  · apply BitVec.eq_of_toNat_eq
    simp
  · rfl

theorem arrDecimal_eq (a b : Byte) (c : Bool) :
    arrDecimal a b c =
      { res := (arrDecimal a b c).res
        n := c
        v := ((a &&& b) ^^^ rorByte (a &&& b) c).getLsbD 6
        z := decide ((rorByte (a &&& b) c).toNat = 0)
        c := decide ((a &&& b).toNat / 16 * 16 + (a &&& b).toNat / 16 % 2 * 16 > 0x50) } := by
  simp only [arrDecimal, rotateRight_eq, byte_beq_zero, arr_high_fix_iff]

/-- Settles O58: the rotated byte, and in decimal mode its two corrections. -/
theorem arrInstruction : Obligations.ArrInstruction := by
  intro b s t r low high r1 r2
  rw [exec_arr]
  split_ifs with hd
  · have harr : s.arr b = arrBinary s.a b s.p.c := by rw [State.arr, hd, arrResult]
    rw [harr, arrBinary_eq]
    rfl
  · have harr : s.arr b = arrDecimal s.a b s.p.c := by rw [State.arr, eq_true_of_ne_false hd, arrResult]
    rw [harr, arrDecimal_eq, arrDecimal_res]
    rfl

end Sys2Proof.Machine
end

section
/-! Control and idle instructions (spec/44_control.md sections 1 to 3, spec/46_nmos_undocumented.md section 6,
spec/47_cmos_unused.md): branches, jumps, and the instructions that move PC and charge cycles alone. -/

namespace Sys2Proof.Machine

/-! ### Branches -/

theorem sext16_toNat : ∀ b : Byte, (sext16 b).toNat = if b.toNat < 128 then b.toNat else b.toNat + 65280 := by decide

/-- A taken branch's target (rule R123). -/
theorem branchTarget_toNat (b : Byte) (s : State) : (branchTarget b s).toNat = branchGoal s b := by
  have hb := b.isLt
  rw [branchTarget, BitVec.toNat_add, BitVec.toNat_add, sext16_toNat, branchGoal, signed]
  simp only [BitVec.ofNat_eq_ofNat, BitVec.toNat_ofNat]
  split_ifs <;> omega

theorem branchTarget_eq (b : Byte) (s : State) : branchTarget b s = BitVec.ofNat 16 (branchGoal s b) := by
  rw [← branchTarget_toNat, BitVec.ofNat_toNat, BitVec.setWidth_eq]

theorem pc_add_two (s : State) : s.pc + 2 = pcAfter s 2 := by
  apply BitVec.eq_of_toNat_eq
  simp [pcAfter]

/-- The cycles of a branch (rule R300). -/
theorem branchExtra_eq (cond : Bool) (b : Byte) (s : State) :
    branchExtra cond b s =
      if cond = true then (if branchGoal s b / 256 = (s.pc.toNat + 2) % 65536 / 256 then 1 else 2) else 0 := by
  have hpage : (hiByte (branchTarget b s) == hiByte (s.pc + 2)) =
      decide (branchGoal s b / 256 = (s.pc.toNat + 2) % 65536 / 256) := by
    rw [byte_beq_eq_decide, hiByte_toNat, hiByte_toNat, branchTarget_toNat, BitVec.toNat_add]
    rfl
  rw [branchExtra, hpage]
  simp only [decide_eq_true_eq]

theorem branchInstr_eq_branched (cond : Bool) (b : Byte) (s : State) :
    branchInstr cond b s = .next (branched s b cond) := by
  rw [branchInstr_next, branchExtra_eq, branchTarget_eq, pc_add_two]
  cases cond with
  | false => rfl
  | true =>
    simp only [if_true, branched, State.setPc, State.charge]
    split_ifs <;> rfl

@[simp] theorem exec_bpl (b : Byte) (s : State) : exec (.bpl b) s = .next (branched s b (!s.p.n)) :=
  branchInstr_eq_branched _ b s
@[simp] theorem exec_bmi (b : Byte) (s : State) : exec (.bmi b) s = .next (branched s b s.p.n) :=
  branchInstr_eq_branched _ b s
@[simp] theorem exec_bvc (b : Byte) (s : State) : exec (.bvc b) s = .next (branched s b (!s.p.v)) :=
  branchInstr_eq_branched _ b s
@[simp] theorem exec_bvs (b : Byte) (s : State) : exec (.bvs b) s = .next (branched s b s.p.v) :=
  branchInstr_eq_branched _ b s
@[simp] theorem exec_bcc (b : Byte) (s : State) : exec (.bcc b) s = .next (branched s b (!s.p.c)) :=
  branchInstr_eq_branched _ b s
@[simp] theorem exec_bcs (b : Byte) (s : State) : exec (.bcs b) s = .next (branched s b s.p.c) :=
  branchInstr_eq_branched _ b s
@[simp] theorem exec_bne (b : Byte) (s : State) : exec (.bne b) s = .next (branched s b (!s.p.z)) :=
  branchInstr_eq_branched _ b s
@[simp] theorem exec_beq (b : Byte) (s : State) : exec (.beq b) s = .next (branched s b s.p.z) :=
  branchInstr_eq_branched _ b s
@[simp] theorem exec_bra (b : Byte) (s : State) : exec (.bra b) s = .next (branched s b true) :=
  branchInstr_eq_branched _ b s

/-- Settles O41: nine conditions of one branch. -/
theorem branchInstructions : Obligations.BranchInstructions := by
  intro b s
  exact ⟨exec_bpl b s, exec_bmi b s, exec_bvc b s, exec_bvs b s, exec_bcc b s, exec_bcs b s, exec_bne b s, exec_beq b s,
    exec_bra b s⟩

/-! ### Jumps -/

theorem read16_advance (w : Word) (n : Nat) (s : State) :
    read16 w (s.advance n) = ((read16 w s).1, (read16 w s).2.advance n) := by
  simp only [read16, memRead_advance]

theorem read16PageWrapped_advance (w : Word) (n : Nat) (s : State) :
    read16PageWrapped w (s.advance n) = ((read16PageWrapped w s).1, (read16PageWrapped w s).2.advance n) := by
  simp only [read16PageWrapped, memRead_advance]

theorem jumpTarget_advance (m : JmpMode) (n : Nat) (s : State) :
    jumpTarget m (s.advance n) = ((jumpTarget m s).1, (jumpTarget m s).2.advance n) := by
  cases m with
  | abs w => rfl
  | ind w =>
    cases hv : s.params.variant with
    | nmos => simp only [jumpTarget, State.advance_params, hv, read16PageWrapped_advance]
    | cmos => simp only [jumpTarget, State.advance_params, hv, read16_advance]
  | indX w => simp only [jumpTarget, State.advance_x, read16_advance]

/-- The pointer reads of JMP change the record of the host's calls and the count of draws alone. -/
theorem jumpTarget_snd (m : JmpMode) (s : State) :
    (jumpTarget m s).2 =
      { s with hostLog := (jumpTarget m s).2.hostLog, draws := (jumpTarget m s).2.draws } := by
  rw [State.mk.injEq]
  simp

/-- The state that a jump leaves: PC at the target that its pointer reads give. -/
def jumped (s : State) (target : Word × State) (cycles : Int) : State :=
  { s with pc := target.1, clk := s.clk + cycles, hostLog := target.2.hostLog, draws := target.2.draws }

@[simp] theorem exec_jmp (m : JmpMode) (s : State) :
    exec (.jmp m) s = .next (jumped s (jumpTarget m s) (jumpCycles m s.params.variant)) := by
  simp only [exec, execJmp, jumpTarget_advance]
  rw [jumpTarget_snd]
  rfl

/-- Settles O42: the target of each form, and the two variants of the indirect one. -/
theorem jumpInstructions : Obligations.JumpInstructions := by
  intro w s
  refine ⟨exec_jmp (.abs w) s, ?_, ?_⟩
  · rw [exec_jmp]
    cases hv : s.params.variant with
    | nmos => simp only [jumpTarget, jumpCycles, hv, if_true]; rfl
    | cmos => simp only [jumpTarget, jumpCycles, hv, reduceCtorEq, if_false]; rfl
  · have hptr : w + zext16 s.x = BitVec.ofNat 16 ((w.toNat + s.x.toNat) % 65536) := by
      apply BitVec.eq_of_toNat_eq
      simp [zext16_toNat]
    rw [exec_jmp, jumpTarget, hptr]
    rfl

/-! ### Instructions that do nothing else -/

/-- The state an idle instruction leaves: PC past it and its cycles charged (rule R74). -/
def idled (s : State) (len cycles : Nat) : State := { s with pc := pcAfter s len, clk := s.clk + cycles }

theorem idleInstr_eq_idled (len cycles : Nat) (s : State) : idleInstr len cycles s = .next (idled s len cycles) := by
  rw [idleInstr_next, State.advance_eq]
  rfl

@[simp] theorem exec_nop (s : State) : exec .nop s = .next (idled s 1 2) := idleInstr_eq_idled 1 2 s

@[simp] theorem exec_nopUndoc (op : Byte) (f : NopForm) (s : State) :
    exec (.nopUndoc op f) s = .next (idled s (lengthOf f.operands) (nopCycles f + nopPenalty f s)) :=
  idleInstr_eq_idled _ _ s

@[simp] theorem exec_nopBad (op : Byte) (f : BadForm) (s : State) :
    exec (.nopBad op f) s = .next (idled s (lengthOf f.operands) (badCycles op f)) := idleInstr_eq_idled _ _ s

@[simp] theorem exec_jam (op b : Byte) (s : State) :
    exec (.jam op b) s =
      if s.params.nmosJamHalts = true then .next { s with halted := true, clk := s.clk + 2 } else .next (idled s 2 2) := by
  rw [← idleInstr_eq_idled]
  rfl

theorem nopPenalty_absX (w : Word) (s : State) :
    nopCycles (.absX w) + nopPenalty (.absX w) s =
      if w.toNat / 256 = (w.toNat + s.x.toNat) % 65536 / 256 then 4 else 5 := by
  rw [nopPenalty, Ea.indexed_cross, nopCycles, bitNat]
  simp only [decide_eq_true_eq]
  split_ifs <;> omega

/-- The cycles of a bad opcode, by its number (rules R461 to R466). -/
theorem badCycles_two (op b : Byte) :
    badCycles op (.two b) = if op.toNat % 16 = 2 then 2 else if op.toNat = 0x44 then 3 else 4 := by
  rw [badCycles, byte_beq_eq_decide, byte_beq_eq_decide, low_digit_toNat]
  simp only [decide_eq_true_eq]
  rfl

theorem badCycles_three (op : Byte) (w : Word) : badCycles op (.three w) = if op.toNat = 0x5C then 7 else 4 := by
  rw [badCycles, byte_beq_eq_decide]
  simp only [decide_eq_true_eq]
  rfl

/-- Settles O60, form by form. -/
theorem idleInstructions : Obligations.IdleInstructions := by
  intro op b f g s
  refine ⟨exec_nop s, ?_, ?_, exec_jam op b s⟩
  · rw [exec_nopUndoc]
    cases f with
    | implied | imm b | zp b | zpX b | abs w => rfl
    | absX w => rw [nopPenalty_absX]; rfl
  · rw [exec_nopBad]
    cases g with
    | one => rfl
    | two b => rw [badCycles_two]; rfl
    | three w => rw [badCycles_three]; rfl

end Sys2Proof.Machine
end

section
/-! Instructions that write memory (spec/41_load_store_transfer.md section 2, spec/43_rmw.md, spec/45_stack_flags_system.md
section 1, spec/46_nmos_undocumented.md): stores, pushes of one byte, read-modify-writes and the high-byte stores. Each is one
of two frames, a store and a read-modify-write, and the frames of the statements follow from these. -/

namespace Sys2Proof.Machine

/-! ### One write -/

/-- A write commutes with a change of the state that it does not look at. -/
theorem memWrite_comm {g : State → State} {s : State} {w : Word} {v : Byte} (hparams : (g s).params = s.params)
    (hflat : (g s).setFlat w v = g (s.setFlat w v))
    (hlog : ∀ b, (g s).log (.write b w (g s).clk v) = g (s.log (.write b w s.clk v))) :
    memWrite w v (g s) = g (memWrite w v s) := by
  rw [memWrite, memWrite, hparams, hflat, hlog]
  split <;> rfl

theorem memWrite_setP (w : Word) (v : Byte) (q : Flags) (s : State) :
    memWrite w v (s.setP q) = (memWrite w v s).setP q :=
  memWrite_comm (g := fun t => t.setP q) rfl rfl fun _ => rfl

theorem memWrite_setSp (w : Word) (v sp : Byte) (s : State) :
    memWrite w v (s.setSp sp) = (memWrite w v s).setSp sp :=
  memWrite_comm (g := fun t => t.setSp sp) rfl rfl fun _ => rfl

/-- A write changes memory and the record of the host's calls alone. -/
theorem memWrite_eq (w : Word) (v : Byte) (s : State) :
    memWrite w v s = { s with mem := (memWrite w v s).mem, hostLog := (memWrite w v s).hostLog } := by
  rw [State.mk.injEq]
  simp

/-- What a write leaves is what rules R54 to R56 say. -/
theorem stored_memWrite (s : State) (w : Word) (v : Byte) : Stored s (memWrite w v s) w v := by
  refine ⟨fun hflat => ?_, fun hhandler => ?_, fun a ha => memWrite_read_other w v s ha⟩
  · rw [memWrite_of_flat hflat]
    exact ⟨Memory.read_write_same s.mem w.toNat v, rfl⟩
  · rw [memWrite_of_handler hhandler]
    exact ⟨rfl, rfl⟩

/-! ### Stores -/

/-- The state a store leaves, with the SP given. -/
def afterStore (s : State) (sp : Byte) (w : Word) (v : Byte) (len cycles : Nat) : State :=
  { memWrite w v s with sp := sp, pc := pcAfter s len, clk := s.clk + cycles }

theorem storeRuns_of_afterStore {i : Instr} {s : State} {sp v : Byte} {w : Word} {len cycles : Nat}
    (h : exec i s = .next (afterStore s sp w v len cycles)) : StoreRuns i s sp w v len cycles := by
  refine ⟨_, h, ?_, stored_memWrite s w v⟩
  rw [afterStore, memWrite_eq]

theorem storeInstr_eq_afterStore (m : EaMode) (v : Byte) (s : State) :
    storeInstr m v s = .next (afterStore s s.sp (m.resolve s).ea v (lengthOf m.operands) m.storeCycles) := by
  rw [storeInstr_next, memWrite_advance, memWrite_eq, State.advance_eq, afterStore, memWrite_eq]
  rfl

@[simp] theorem exec_sta (m : EaMode) (s : State) :
    exec (.sta m) s = .next (afterStore s s.sp (m.resolve s).ea s.a (lengthOf m.operands) m.storeCycles) :=
  storeInstr_eq_afterStore m s.a s

@[simp] theorem exec_stx (m : EaMode) (s : State) :
    exec (.stx m) s = .next (afterStore s s.sp (m.resolve s).ea s.x (lengthOf m.operands) m.storeCycles) :=
  storeInstr_eq_afterStore m s.x s

@[simp] theorem exec_sty (m : EaMode) (s : State) :
    exec (.sty m) s = .next (afterStore s s.sp (m.resolve s).ea s.y (lengthOf m.operands) m.storeCycles) :=
  storeInstr_eq_afterStore m s.y s

@[simp] theorem exec_stz (m : EaMode) (s : State) :
    exec (.stz m) s = .next (afterStore s s.sp (m.resolve s).ea 0 (lengthOf m.operands) m.storeCycles) :=
  storeInstr_eq_afterStore m 0 s

@[simp] theorem exec_sax (m : EaMode) (s : State) :
    exec (.sax m) s = .next (afterStore s s.sp (m.resolve s).ea (s.a &&& s.x) (lengthOf m.operands) m.storeCycles) :=
  storeInstr_eq_afterStore m (s.a &&& s.x) s

/-- Settles O26. -/
theorem storeInstructions : Obligations.StoreInstructions := by
  intro m s
  exact ⟨storeRuns_of_afterStore (exec_sta m s), storeRuns_of_afterStore (exec_stx m s),
    storeRuns_of_afterStore (exec_sty m s), storeRuns_of_afterStore (exec_stz m s),
    storeRuns_of_afterStore (exec_sax m s)⟩

/-! ### Pushes of one byte -/

theorem impliedInstr_push8 {f : State → State} {s : State} {v : Byte} (cycles : Nat)
    (hf : f (s.advance 1) = push8 v (s.advance 1)) :
    impliedInstr cycles f s = .next (afterStore s (decByte s.sp) (stackAddr s.sp) v 1 cycles) := by
  rw [impliedInstr_next, hf, push8_advance, push8_eq, memWrite_eq, State.advance_eq, afterStore, memWrite_eq]
  rfl

@[simp] theorem exec_pha (s : State) : exec .pha s = .next (afterStore s (decByte s.sp) (stackAddr s.sp) s.a 1 3) :=
  impliedInstr_push8 3 rfl

@[simp] theorem exec_phx (s : State) : exec .phx s = .next (afterStore s (decByte s.sp) (stackAddr s.sp) s.x 1 3) :=
  impliedInstr_push8 3 rfl

@[simp] theorem exec_phy (s : State) : exec .phy s = .next (afterStore s (decByte s.sp) (stackAddr s.sp) s.y 1 3) :=
  impliedInstr_push8 3 rfl

@[simp] theorem exec_php (s : State) :
    exec .php s = .next (afterStore s (decByte s.sp) (stackAddr s.sp) (statusImage true s.p) 1 3) :=
  impliedInstr_push8 3 rfl

/-- Settles O46. -/
theorem pushInstructions : Obligations.PushInstructions := by
  intro s
  exact ⟨storeRuns_of_afterStore (exec_pha s), storeRuns_of_afterStore (exec_phx s),
    storeRuns_of_afterStore (exec_phy s), storeRuns_of_afterStore (exec_php s)⟩

/-! ### High-byte stores -/

theorem highPlusOne_eq (e : Ea) : highPlusOne e = BitVec.ofNat 8 ((e.base.toNat / 256 + 1) % 256) := by
  apply BitVec.eq_of_toNat_eq
  rw [highPlusOne, BitVec.toNat_add, hiByte_toNat]
  simp

theorem shAddr_eq (q : Params) (e : Ea) (v : Byte) :
    shAddr q e v = if e.cross = true ∧ q.shPageCrossCorrupts = true then wordPlus v (loByte e.ea) 0 else e.ea := by
  rw [shAddr, wordPlus_zero]
  simp only [Bool.and_eq_true]

theorem shStoreInstr_eq_afterStore (m : EaMode) {value : Byte → State → Byte} {s : State} {v : Byte}
    (hv : value (highPlusOne (m.resolve s)) (s.advance (lengthOf m.operands)) = v) :
    shStoreInstr m value s =
      .next (afterStore s s.sp (shAddr s.params (m.resolve s) v) v (lengthOf m.operands) m.storeCycles) := by
  simp only [shStoreInstr, EaMode.resolve_advance, hv, State.advance_params]
  rw [memWrite_advance, memWrite_eq, State.advance_eq, afterStore, memWrite_eq]
  rfl

/-- The value AHX stores (rule R417). -/
def ahxValue (m : EaMode) (s : State) : Byte := s.a &&& s.x &&& highPlusOne (m.resolve s)

@[simp] theorem exec_ahx (m : EaMode) (s : State) :
    exec (.ahx m) s =
      .next (afterStore s s.sp (shAddr s.params (m.resolve s) (ahxValue m s)) (ahxValue m s) (lengthOf m.operands)
        m.storeCycles) := by
  rw [exec, execAhx]
  exact shStoreInstr_eq_afterStore m rfl

/-- The value SHY stores (rule R419). -/
def shyValue (w : Word) (s : State) : Byte := s.y &&& highPlusOne ((EaMode.absX w).resolve s)

@[simp] theorem exec_shy (w : Word) (s : State) :
    exec (.shy w) s =
      .next (afterStore s s.sp (shAddr s.params ((EaMode.absX w).resolve s) (shyValue w s)) (shyValue w s) 3 5) := by
  rw [exec, execShy]
  exact shStoreInstr_eq_afterStore (.absX w) rfl

/-- The value SHX stores (rule R420). -/
def shxValue (w : Word) (s : State) : Byte := s.x &&& highPlusOne ((EaMode.absY w).resolve s)

@[simp] theorem exec_shx (w : Word) (s : State) :
    exec (.shx w) s =
      .next (afterStore s s.sp (shAddr s.params ((EaMode.absY w).resolve s) (shxValue w s)) (shxValue w s) 3 5) := by
  rw [exec, execShx]
  exact shStoreInstr_eq_afterStore (.absY w) rfl

/-- The value TAS stores (rule R418): SP has been written before. -/
def tasValue (w : Word) (s : State) : Byte := s.a &&& s.x &&& highPlusOne ((EaMode.absY w).resolve s)

@[simp] theorem exec_tas (w : Word) (s : State) :
    exec (.tas w) s =
      .next (afterStore s (s.a &&& s.x) (shAddr s.params ((EaMode.absY w).resolve s) (tasValue w s)) (tasValue w s) 3
        5) := by
  have hstore : execTas w s = .next (afterStore (s.setSp (s.a &&& s.x)) (s.a &&& s.x)
      (shAddr s.params ((EaMode.absY w).resolve s) (tasValue w s)) (tasValue w s) 3 5) := by
    rw [execTas]
    exact shStoreInstr_eq_afterStore (.absY w) (s := s.setSp (s.a &&& s.x)) rfl
  rw [exec, hstore, afterStore, memWrite_setSp]
  rfl

/-- Settles O59: the value from `H1`, and the address from the page cross. -/
theorem highByteStores : Obligations.HighByteStores := by
  intro m w s
  simp only [← highPlusOne_eq, ← shAddr_eq]
  exact ⟨storeRuns_of_afterStore (exec_ahx m s), storeRuns_of_afterStore (exec_tas w s),
    storeRuns_of_afterStore (exec_shy w s), storeRuns_of_afterStore (exec_shx w s)⟩

/-! ### Read-modify-writes of memory -/

/-- The state a read-modify-write leaves: one read, then one write of `r` to the same address (rule R250). -/
def afterRmw (m : EaMode) (s : State) (r a : Byte) (p : Flags) : State :=
  { memWrite (m.resolve s).ea r (operandOf m s).2 with
    a := a
    p := p
    pc := pcAfter s (lengthOf m.operands)
    clk := s.clk + m.rmwCycles }

/-- A memory operand's read changes the record of the host's calls and the count of draws alone. -/
theorem operandOf_snd (m : EaMode) (s : State) :
    (operandOf m s).2 =
      { s with hostLog := (operandOf m s).2.hostLog, draws := (operandOf m s).2.draws } :=
  ReadOp.load_snd (.mem m) s

theorem rmwRuns_of_afterRmw {i : Instr} {m : EaMode} {s : State} {r a : Byte} {p : Flags}
    (h : exec i s = .next (afterRmw m s r a p)) : RmwRuns i m s r a p := by
  refine ⟨_, h, ?_, stored_memWrite (operandOf m s).2 (m.resolve s).ea r⟩
  rw [afterRmw, memWrite_eq, operandOf_snd]

/-- A read-modify-write, from the byte and the flags it computes and from what follows the write. -/
theorem rmwMem_eq_afterRmw {m : EaMode} {f : Byte → State → Byte × Flags} {after : Byte → State → State} {s : State}
    {r a : Byte} {q p : Flags}
    (hf : ∀ t : State, t.a = s.a → t.p = s.p → f (operandOf m s).1 t = (r, q))
    (hafter : ∀ t : State, t.params = s.params → t.a = s.a → t.p = q → after r t = { t with a := a, p := p }) :
    rmwMem m f after s = .next (afterRmw m s r a p) := by
  have hread := EaMode.load_advance m (m.resolve s).ea (lengthOf m.operands) s
  have hstep := hf ((operandOf m s).2.advance (lengthOf m.operands)) (by simp [operandOf]) (by simp [operandOf])
  simp only [rmwMem, EaMode.resolve_advance, hread]
  change Host.Outcome.next ((after (f (operandOf m s).1 ((operandOf m s).2.advance _)).1 (memWrite _
    (f (operandOf m s).1 ((operandOf m s).2.advance _)).1
    (((operandOf m s).2.advance _).setP (f (operandOf m s).1 ((operandOf m s).2.advance _)).2))).charge _) = _
  rw [hstep, hafter _ (by simp [operandOf]) (by simp [operandOf]) (by simp), memWrite_setP, memWrite_advance, memWrite_eq,
    State.advance_eq, afterRmw, memWrite_eq, operandOf_snd]
  rfl

/-- A read-modify-write with nothing after it leaves A alone. -/
theorem rmwMem_noAfter {m : EaMode} {f : Byte → State → Byte × Flags} {s : State} {r : Byte} {q : Flags}
    (hf : ∀ t : State, t.a = s.a → t.p = s.p → f (operandOf m s).1 t = (r, q)) :
    rmwMem m f noAfter s = .next (afterRmw m s r s.a q) :=
  rmwMem_eq_afterRmw hf fun t _ ha hp => by rw [← ha, ← hp]; rfl

/-! The byte and the flags of each step. -/

theorem aslStep_eq (v : Byte) (t : State) : aslStep v t = (aslByte v, nzc t.p (aslByte v) (128 ≤ v.toNat)) := by
  rw [aslStep, shiftStep, shiftAsl_eq, Flags.setShift_eq_nzc t.p _ rfl]

theorem lsrStep_eq (v : Byte) (t : State) : lsrStep v t = (lsrByte v, nzc t.p (lsrByte v) (v.toNat % 2 = 1)) := by
  rw [lsrStep, shiftStep, shiftLsr_eq, Flags.setShift_eq_nzc t.p _ rfl]

theorem rolStep_eq (v : Byte) (t : State) :
    rolStep v t = (rolByte v t.p.c, nzc t.p (rolByte v t.p.c) (128 ≤ v.toNat)) := by
  rw [rolStep, shiftStep, shiftRol_eq, Flags.setShift_eq_nzc t.p _ rfl]

theorem rorStep_eq (v : Byte) (t : State) :
    rorStep v t = (rorByte v t.p.c, nzc t.p (rorByte v t.p.c) (v.toNat % 2 = 1)) := by
  rw [rorStep, shiftStep, shiftRor_eq, Flags.setShift_eq_nzc t.p _ rfl]

theorem incStep_eq (v : Byte) (t : State) : incStep v t = (incByte v, nz t.p (incByte v)) := by
  rw [incStep, byte_add_one, Flags.setNZ_eq_nz]

theorem decStep_eq (v : Byte) (t : State) : decStep v t = (decByte v, nz t.p (decByte v)) := by
  rw [decStep, byte_sub_one, Flags.setNZ_eq_nz]

/-! ### Shifts and rotates -/

/-- A shift or rotate of A. -/
theorem rmwInstr_acc {f : Byte → State → Byte × Flags} {s : State} {r : Byte} {q : Flags}
    (hf : ∀ t : State, t.a = s.a → t.p = s.p → f s.a t = (r, q)) :
    rmwInstr .acc f s = .next (afterImplied 2 s r s.x s.y s.sp q) := by
  rw [rmwInstr]
  refine impliedInstr_eq fun t ha hx hy hsp hp => ?_
  rw [ha, hf t ha hp, ← hx, ← hy, ← hsp]
  rfl

@[simp] theorem exec_asl_acc (s : State) :
    exec (.asl .acc) s =
      .next (afterImplied 2 s (aslByte s.a) s.x s.y s.sp (nzc s.p (aslByte s.a) (128 ≤ s.a.toNat))) :=
  rmwInstr_acc fun t _ hp => by rw [aslStep_eq, hp]

@[simp] theorem exec_lsr_acc (s : State) :
    exec (.lsr .acc) s =
      .next (afterImplied 2 s (lsrByte s.a) s.x s.y s.sp (nzc s.p (lsrByte s.a) (s.a.toNat % 2 = 1))) :=
  rmwInstr_acc fun t _ hp => by rw [lsrStep_eq, hp]

@[simp] theorem exec_rol_acc (s : State) :
    exec (.rol .acc) s =
      .next (afterImplied 2 s (rolByte s.a s.p.c) s.x s.y s.sp (nzc s.p (rolByte s.a s.p.c) (128 ≤ s.a.toNat))) :=
  rmwInstr_acc fun t _ hp => by rw [rolStep_eq, hp]

@[simp] theorem exec_ror_acc (s : State) :
    exec (.ror .acc) s =
      .next (afterImplied 2 s (rorByte s.a s.p.c) s.x s.y s.sp (nzc s.p (rorByte s.a s.p.c) (s.a.toNat % 2 = 1))) :=
  rmwInstr_acc fun t _ hp => by rw [rorStep_eq, hp]

@[simp] theorem exec_asl_mem (m : EaMode) (s : State) :
    exec (.asl (.mem m)) s =
      .next (afterRmw m s (aslByte (operandOf m s).1) s.a
        (nzc s.p (aslByte (operandOf m s).1) (128 ≤ (operandOf m s).1.toNat))) :=
  rmwMem_noAfter fun t _ hp => by rw [aslStep_eq, hp]

@[simp] theorem exec_lsr_mem (m : EaMode) (s : State) :
    exec (.lsr (.mem m)) s =
      .next (afterRmw m s (lsrByte (operandOf m s).1) s.a
        (nzc s.p (lsrByte (operandOf m s).1) ((operandOf m s).1.toNat % 2 = 1))) :=
  rmwMem_noAfter fun t _ hp => by rw [lsrStep_eq, hp]

@[simp] theorem exec_rol_mem (m : EaMode) (s : State) :
    exec (.rol (.mem m)) s =
      .next (afterRmw m s (rolByte (operandOf m s).1 s.p.c) s.a
        (nzc s.p (rolByte (operandOf m s).1 s.p.c) (128 ≤ (operandOf m s).1.toNat))) :=
  rmwMem_noAfter fun t _ hp => by rw [rolStep_eq, hp]

@[simp] theorem exec_ror_mem (m : EaMode) (s : State) :
    exec (.ror (.mem m)) s =
      .next (afterRmw m s (rorByte (operandOf m s).1 s.p.c) s.a
        (nzc s.p (rorByte (operandOf m s).1 s.p.c) ((operandOf m s).1.toNat % 2 = 1))) :=
  rmwMem_noAfter fun t _ hp => by rw [rorStep_eq, hp]

/-- Settles O37. -/
theorem shiftInstructions : Obligations.ShiftInstructions := by
  intro m s
  exact ⟨exec_asl_acc s, exec_lsr_acc s, exec_rol_acc s, exec_ror_acc s, rmwRuns_of_afterRmw (exec_asl_mem m s),
    rmwRuns_of_afterRmw (exec_lsr_mem m s), rmwRuns_of_afterRmw (exec_rol_mem m s), rmwRuns_of_afterRmw (exec_ror_mem m s)⟩

/-! ### Increments, decrements, and test and set or reset -/

@[simp] theorem exec_inc (m : EaMode) (s : State) :
    exec (.inc m) s =
      .next (afterRmw m s (incByte (operandOf m s).1) s.a (nz s.p (incByte (operandOf m s).1))) :=
  rmwMem_noAfter fun t _ hp => by rw [incStep_eq, hp]

@[simp] theorem exec_dec (m : EaMode) (s : State) :
    exec (.dec m) s =
      .next (afterRmw m s (decByte (operandOf m s).1) s.a (nz s.p (decByte (operandOf m s).1))) :=
  rmwMem_noAfter fun t _ hp => by rw [decStep_eq, hp]

@[simp] theorem exec_tsb (m : EaMode) (s : State) :
    exec (.tsb m) s =
      .next (afterRmw m s ((operandOf m s).1 ||| s.a) s.a (s.p.testZ s.a (operandOf m s).1)) :=
  rmwMem_noAfter fun t ha hp => by rw [tsbStep, ha, hp]

@[simp] theorem exec_trb (m : EaMode) (s : State) :
    exec (.trb m) s =
      .next (afterRmw m s ((operandOf m s).1 &&& ~~~s.a) s.a (s.p.testZ s.a (operandOf m s).1)) :=
  rmwMem_noAfter fun t ha hp => by rw [trbStep, ha, hp]

/-- Settles O38. -/
theorem incrementAndTestMemory : Obligations.IncrementAndTestMemory := by
  intro m s
  simp only [← Flags.testZ_eq]
  exact ⟨rmwRuns_of_afterRmw (exec_inc m s), rmwRuns_of_afterRmw (exec_dec m s), rmwRuns_of_afterRmw (exec_tsb m s),
    rmwRuns_of_afterRmw (exec_trb m s)⟩

/-! ### Combined operations -/

/-- The flags of a result replace those of the byte that was written before it. -/
theorem nz_nzc (p : Flags) (v r : Byte) (c : Prop) [Decidable c] : nz (nzc p v c) r = nzc p r c := rfl

@[simp] theorem exec_slo (m : EaMode) (s : State) :
    exec (.slo m) s =
      .next (afterRmw m s (aslByte (operandOf m s).1) (s.a ||| aslByte (operandOf m s).1)
        (nzc s.p (s.a ||| aslByte (operandOf m s).1) (128 ≤ (operandOf m s).1.toNat))) := by
  rw [exec, execSlo]
  refine rmwMem_eq_afterRmw (fun t _ hp => by rw [aslStep_eq, hp]) fun t _ ha hp => ?_
  rw [State.setNZ_eq_setP, ha, State.setA_p, hp, nz_nzc]
  rfl

@[simp] theorem exec_rla (m : EaMode) (s : State) :
    exec (.rla m) s =
      .next (afterRmw m s (rolByte (operandOf m s).1 s.p.c) (s.a &&& rolByte (operandOf m s).1 s.p.c)
        (nzc s.p (s.a &&& rolByte (operandOf m s).1 s.p.c) (128 ≤ (operandOf m s).1.toNat))) := by
  rw [exec, execRla]
  refine rmwMem_eq_afterRmw (fun t _ hp => by rw [rolStep_eq, hp]) fun t _ ha hp => ?_
  rw [State.setNZ_eq_setP, ha, State.setA_p, hp, nz_nzc]
  rfl

@[simp] theorem exec_sre (m : EaMode) (s : State) :
    exec (.sre m) s =
      .next (afterRmw m s (lsrByte (operandOf m s).1) (s.a ^^^ lsrByte (operandOf m s).1)
        (nzc s.p (s.a ^^^ lsrByte (operandOf m s).1) ((operandOf m s).1.toNat % 2 = 1))) := by
  rw [exec, execSre]
  refine rmwMem_eq_afterRmw (fun t _ hp => by rw [lsrStep_eq, hp]) fun t _ ha hp => ?_
  rw [State.setNZ_eq_setP, ha, State.setA_p, hp, nz_nzc]
  rfl

/-- RRA's ADC adds the bit that the rotate shifted out (rule R404). -/
def State.rra (s : State) (v : Byte) : FlagResult :=
  adcResult s.params.variant s.p.d s.a (rorByte v s.p.c) (decide (v.toNat % 2 = 1))

@[simp] theorem exec_rra (m : EaMode) (s : State) :
    exec (.rra m) s =
      .next (afterRmw m s (rorByte (operandOf m s).1 s.p.c) (s.rra (operandOf m s).1).res
        (arith s.p (s.rra (operandOf m s).1))) := by
  rw [exec, execRra]
  refine rmwMem_eq_afterRmw (fun t _ hp => by rw [rorStep_eq, hp]) fun t hq ha hp => ?_
  have hadc : adcResult t.params.variant t.p.d t.a (rorByte (operandOf m s).1 s.p.c) t.p.c = s.rra (operandOf m s).1 := by
    rw [State.rra, hq, ha, hp]
    rfl
  rw [adcEffect, hadc, State.setArith, hp]
  rfl

/-- DCP's compare writes N, Z and C over those of the decrement (rule R405). -/
@[simp] theorem exec_dcp (m : EaMode) (s : State) :
    exec (.dcp m) s =
      .next (afterRmw m s (decByte (operandOf m s).1) s.a (compared s.p s.a (decByte (operandOf m s).1))) := by
  rw [exec, execDcp]
  refine rmwMem_eq_afterRmw (fun t _ hp => by rw [decStep_eq, hp]) fun t _ ha hp => ?_
  rw [Flags.compare_eq_compared, hp, ← ha]
  rfl

/-- ISB's SBC works on the incremented byte (rule R406). -/
@[simp] theorem exec_isb (m : EaMode) (s : State) :
    exec (.isb m) s =
      .next (afterRmw m s (incByte (operandOf m s).1) (s.sbc (incByte (operandOf m s).1)).res
        (arith s.p (s.sbc (incByte (operandOf m s).1)))) := by
  rw [exec, execIsb]
  refine rmwMem_eq_afterRmw (fun t _ hp => by rw [incStep_eq, hp]) fun t hq ha hp => ?_
  have hsbc : sbcResult t.params.variant t.p.d t.a (incByte (operandOf m s).1) t.p.c = s.sbc (incByte (operandOf m s).1) := by
    rw [State.sbc, hq, ha, hp]
    rfl
  rw [sbcEffect, hsbc, State.setArith, hp]
  rfl

/-- Settles O56: on NMOS the combined additions and subtractions are the variant's. -/
theorem combinedOperations : Obligations.CombinedOperations := by
  intro m s hv
  simp only [← hv]
  exact ⟨rmwRuns_of_afterRmw (exec_slo m s), rmwRuns_of_afterRmw (exec_rla m s), rmwRuns_of_afterRmw (exec_sre m s),
    rmwRuns_of_afterRmw (exec_rra m s), rmwRuns_of_afterRmw (exec_dcp m s), rmwRuns_of_afterRmw (exec_isb m s)⟩

/-! ### Read-modify-writes of a handler block -/

/-- Two accesses of a handler block are two records, and no flat byte changes (rule R72). -/
theorem afterRmw_handler {m : EaMode} {s : State} (hm : m.isIn [.zp, .zpX, .zpY] = false)
    (hhandler : s.params.isFlat (m.resolve s).ea = false) (r a : Byte) (p : Flags) :
    (afterRmw m s r a p).mem = s.mem ∧
      (afterRmw m s r a p).hostLog =
        .write (s.params.block (m.resolve s).ea) (m.resolve s).ea s.clk r ::
          .read (s.params.block (m.resolve s).ea) (m.resolve s).ea s.clk (s.handlerAnswer (m.resolve s).ea) :: s.hostLog := by
  rw [afterRmw, operandOf_dispatched hm, memRead_of_handler hhandler, memWrite_of_handler (by exact hhandler)]
  exact ⟨rfl, rfl⟩

/-- Settles O40: all fourteen are the one frame. -/
theorem rmwTouchesAHandlerTwice : Obligations.RmwTouchesAHandlerTwice := by
  intro m s hm hhandler i hi
  obtain ⟨r, a, p, hexec⟩ : ∃ r a p, exec i s = .next (afterRmw m s r a p) := by
    simp only [List.mem_cons, List.not_mem_nil, or_false] at hi
    obtain rfl | rfl | rfl | rfl | rfl | rfl | rfl | rfl | rfl | rfl | rfl | rfl | rfl | rfl := hi
    exacts [⟨_, _, _, exec_asl_mem m s⟩, ⟨_, _, _, exec_lsr_mem m s⟩, ⟨_, _, _, exec_rol_mem m s⟩,
      ⟨_, _, _, exec_ror_mem m s⟩, ⟨_, _, _, exec_inc m s⟩, ⟨_, _, _, exec_dec m s⟩, ⟨_, _, _, exec_tsb m s⟩,
      ⟨_, _, _, exec_trb m s⟩, ⟨_, _, _, exec_slo m s⟩, ⟨_, _, _, exec_rla m s⟩, ⟨_, _, _, exec_sre m s⟩,
      ⟨_, _, _, exec_rra m s⟩, ⟨_, _, _, exec_dcp m s⟩, ⟨_, _, _, exec_isb m s⟩]
  obtain ⟨hmem, hlog⟩ := afterRmw_handler hm hhandler r a p
  exact ⟨_, _, _, _, hexec, hmem, hlog⟩

end Sys2Proof.Machine
end

section
/-! Stack, exceptions and reset (spec/44_control.md section 4, spec/45_stack_flags_system.md, spec/60_exceptions.md,
spec/70_reset_and_hazards.md): calls and returns, pulls, the one entry of BRK and the interrupts and its return, and the
host's reset. -/

namespace Sys2Proof.Machine

/-! ### Calls and returns -/

theorem push16_eq (w : Word) (s : State) :
    push16 w s = { s with
      sp := decByte (decByte s.sp), mem := (push16 w s).mem, hostLog := (push16 w s).hostLog } := by
  have hsp : (push16 w s).sp = decByte (decByte s.sp) := by rw [push16_sp, byte_sub_one, byte_sub_one]
  rw [← hsp, State.mk.injEq]
  simp

/-- JSR pushes the address of its own last byte (rule R311). -/
@[simp] theorem exec_jsr (w : Word) (s : State) :
    exec (.jsr w) s = .next { push16 (pcAfter s 2) s with pc := w, clk := s.clk + 6 } := by
  rw [exec, execJsr, pc_add_two, push16_advance, push16_eq]
  rfl

theorem push8_hostLog_of_wf {s : State} (h : s.params.wf = true) (v : Byte) : (push8 v s).hostLog = s.hostLog := by
  rw [push8_of_wf h, State.setSp_hostLog, State.setFlat_hostLog]

theorem push16_hostLog_of_wf {s : State} (h : s.params.wf = true) (w : Word) : (push16 w s).hostLog = s.hostLog := by
  rw [push16, push8_hostLog_of_wf (by rwa [push8_params]), push8_hostLog_of_wf h]

/-- The two bytes of a pushed word, and every other byte as before (rule R63). -/
theorem push16_bytes {s : State} (h : s.params.wf = true) (w : Word) :
    (push16 w s).flat (stackAddr s.sp) = hiByte w ∧ (push16 w s).flat (stackAddr (decByte s.sp)) = loByte w ∧
      ∀ a : Nat, a ≠ (stackAddr s.sp).toNat → a ≠ (stackAddr (decByte s.sp)).toNat →
        Memory.read (push16 w s).mem a = Memory.read s.mem a := by
  rw [push16_of_wf h]
  refine ⟨?_, ?_, fun a ha ha' => ?_⟩
  · simp [State.flat_setFlat, byte_ne_decByte]
  · simp [State.flat_setFlat]
  · simp only [State.setSp_mem, State.setFlat_mem]
    rw [Memory.read_write_other _ _ ha', Memory.read_write_other _ _ ha]

/-- Settles O43: the stack of a valid map is flat, so the two pushes are two stores. -/
theorem subroutineCall : Obligations.SubroutineCall := by
  intro w s hwf
  obtain ⟨hhi, hlo, hother⟩ := push16_bytes hwf (pcAfter s 2)
  have hlog : (push16 (pcAfter s 2) s).hostLog = s.hostLog := push16_hostLog_of_wf hwf _
  refine ⟨_, exec_jsr w s, ?_, hhi, hlo, hother⟩
  rw [push16_eq, hlog]

theorem pop8_advance (n : Nat) (s : State) : pop8 (s.advance n) = ((pop8 s).1, (pop8 s).2.advance n) :=
  memRead_advance (stackAddr (s.sp + 1)) n (s.setSp (s.sp + 1))

theorem pop16_advance (n : Nat) (s : State) : pop16 (s.advance n) = ((pop16 s).1, (pop16 s).2.advance n) := by
  simp only [pop16, pop8_advance]

@[simp] theorem exec_rts (s : State) :
    exec .rts s = .next { (pop16 s).2 with pc := (pop16 s).1 + 1, clk := s.clk + 6 } := by
  rw [exec, execRts, impliedInstr_next, pop16_advance, ← pop16_clk s]
  rfl

/-- The popped address plus one (rule R312). -/
theorem joinBytes_add_one (hi lo : Byte) : joinBytes hi lo + 1 = wordPlus hi lo 1 := by
  apply BitVec.eq_of_toNat_eq
  rw [word_add_one_eq, wordPlus, joinBytes_toNat]

/-- Settles O44. -/
theorem subroutineReturn : Obligations.SubroutineReturn := by
  intro s hwf
  rw [exec_rts, pop16_of_wf hwf, joinBytes_add_one]
  rfl

/-- Settles O45: RTS pops the address that JSR pushed, and adds one to it. -/
theorem callThenReturn : Obligations.CallThenReturn := by
  intro w s hwf
  obtain ⟨t, hcall, ht, hhi, hlo, -⟩ := subroutineCall w s hwf
  have hsp : t.sp = decByte (decByte s.sp) := by rw [ht]
  have hparams : t.params = s.params := by rw [ht]
  refine ⟨t, _, hcall, subroutineReturn t (hparams ▸ hwf), ?_, ?_⟩
  · simp only [hsp, incByte_decByte, hhi, hlo]
    apply BitVec.eq_of_toNat_eq
    simp only [wordPlus, pcAfter, hiByte_toNat, loByte_toNat, BitVec.toNat_ofNat]
    omega
  · simp only [hsp, incByte_decByte]

/-! ### Pulls -/

/-- The state a pull leaves with these registers and flags: SP one up, and one read of the byte there. -/
def afterPull (cycles : Nat) (s : State) (a x y : Byte) (p : Flags) : State :=
  { (pop8 s).2 with a := a, x := x, y := y, p := p, pc := pcAfter s 1, clk := s.clk + cycles }

theorem impliedInstr_eq_afterPull {cycles : Nat} {f : State → State} {s : State} {a x y : Byte} {p : Flags}
    (hf : f (s.advance 1) = { (pop8 (s.advance 1)).2 with a := a, x := x, y := y, p := p }) :
    impliedInstr cycles f s = .next (afterPull cycles s a x y p) := by
  rw [impliedInstr_next, hf, pop8_advance, State.advance_eq, afterPull, ← pop8_clk s, pcAfter, pop8_pc]
  rfl

@[simp] theorem exec_pla (s : State) : exec .pla s = .next (afterPull 4 s (pop8 s).1 s.x s.y (nz s.p (pop8 s).1)) := by
  rw [exec, execPla]
  apply impliedInstr_eq_afterPull
  rw [State.setNZ_eq_setP, State.mk.injEq]
  simp [pop8_advance]

@[simp] theorem exec_plx (s : State) : exec .plx s = .next (afterPull 4 s s.a (pop8 s).1 s.y (nz s.p (pop8 s).1)) := by
  rw [exec, execPlx]
  apply impliedInstr_eq_afterPull
  rw [State.setNZ_eq_setP, State.mk.injEq]
  simp [pop8_advance]

@[simp] theorem exec_ply (s : State) : exec .ply s = .next (afterPull 4 s s.a s.x (pop8 s).1 (nz s.p (pop8 s).1)) := by
  rw [exec, execPly]
  apply impliedInstr_eq_afterPull
  rw [State.setNZ_eq_setP, State.mk.injEq]
  simp [pop8_advance]

/-- PLP, whose hook is called with the charged `clk` (rules R106 and R353). -/
@[simp] theorem exec_plp (s : State) :
    exec .plp s = .next (afterPull 4 s s.a s.x s.y (statusLoad (pop8 s).1)).callHook := by
  have hpull : impliedInstr 4 (fun t => (pop8 t).2.setP (statusLoad (pop8 t).1)) s =
      .next (afterPull 4 s s.a s.x s.y (statusLoad (pop8 s).1)) := by
    apply impliedInstr_eq_afterPull
    rw [State.mk.injEq]
    simp [pop8_advance]
  rw [exec, execPlp, hpull]
  rfl

theorem afterPull_of_wf {s : State} (h : s.params.wf = true) (cycles : Nat) (a x y : Byte) (p : Flags) :
    afterPull cycles s a x y p = afterImplied cycles s a x y (incByte s.sp) p := by
  rw [afterPull, pop8_of_wf h]
  rfl

/-- Settles O47. -/
theorem pullInstructions : Obligations.PullInstructions := by
  intro s hwf
  simp only [exec_pla, exec_plx, exec_ply, afterPull_of_wf hwf, pop8_of_wf hwf, and_self]

/-- Settles O48. -/
theorem pullStatusAndCli : Obligations.PullStatusAndCli := by
  intro s hwf
  refine ⟨?_, exec_cli s⟩
  rw [exec_plp, afterPull_of_wf hwf, pop8_of_wf hwf]
  rfl

/-! ### Taking an exception -/

theorem Flags.enter_eq (p : Flags) (v : Variant) :
    p.enter v = { p with i := true, d := if v = .cmos then false else p.d } := by
  cases v <;> rfl

/-- A read in a state that differs from another in nothing the read looks at: the same byte, and the same record. -/
theorem memRead_transfer {w : Word} {s u : State} (hparams : u.params = s.params) (hflat : u.flat w = s.flat w)
    (hclk : u.clk = s.clk) (hlog : u.hostLog = s.hostLog) (hdraws : u.draws = s.draws) :
    memRead w u =
      ((memRead w s).1, { u with hostLog := (memRead w s).2.hostLog, draws := (memRead w s).2.draws }) := by
  cases hw : s.params.isFlat w with
  | true =>
    rw [memRead_of_flat hw, memRead_of_flat (s := u) (hparams ▸ hw), hflat, ← hlog, ← hdraws]
  | false =>
    rw [memRead_of_handler hw, memRead_of_handler (s := u) (hparams ▸ hw), State.handlerAnswer, State.handlerAnswer,
      State.log, State.log, State.draw, State.draw, hparams, hclk, hlog, hdraws]

theorem read16_transfer {w : Word} {s u : State} (hparams : u.params = s.params) (hlow : u.flat w = s.flat w)
    (hhigh : u.flat (w + 1) = s.flat (w + 1)) (hclk : u.clk = s.clk) (hlog : u.hostLog = s.hostLog)
    (hdraws : u.draws = s.draws) :
    read16 w u =
      ((read16 w s).1, { u with hostLog := (read16 w s).2.hostLog, draws := (read16 w s).2.draws }) := by
  have hflat : ∀ t : State, (memRead w t).2.flat (w + 1) = t.flat (w + 1) := fun t => by
    rw [State.flat, memRead_mem, State.flat]
  simp only [read16]
  rw [memRead_transfer hparams hlow hclk hlog hdraws, memRead_transfer (s := (memRead w s).2)]
  · exact hparams.trans (memRead_params w s).symm
  · exact hhigh.trans (hflat s).symm
  · exact hclk.trans (memRead_clk w s).symm
  · rfl
  · rfl

theorem State.setFlat_setSp (s : State) (w : Word) (sp v : Byte) :
    (s.setSp sp).setFlat w v = (s.setFlat w v).setSp sp := rfl

theorem State.setSp_setSp (s : State) (sp sp' : Byte) : (s.setSp sp).setSp sp' = s.setSp sp' := rfl

/-- The stack bytes of an exception entry in a valid map: three stores, and SP three down (rules R63 and R358). -/
theorem entry_pushes_of_wf {s : State} (h : s.params.wf = true) (ret : Word) (image : Byte) :
    push8 image (push16 ret s) =
      (((s.setFlat (stackAddr s.sp) (hiByte ret)).setFlat (stackAddr (decByte s.sp)) (loByte ret)).setFlat
        (stackAddr (decByte (decByte s.sp))) image).setSp (decByte (decByte (decByte s.sp))) := by
  have hpushed : (push16 ret s).params.wf = true := by rwa [push16_params]
  rw [push8_of_wf hpushed, push16_of_wf h, State.setFlat_setSp, State.setSp_setSp, State.setSp_sp]

theorem entry_pushes_stacked {s : State} (h : s.params.wf = true) (ret : Word) (image : Byte) :
    Stacked s (push8 image (push16 ret s)) ret image := by
  rw [entry_pushes_of_wf h]
  refine ⟨?_, ?_, ?_, fun a h0 h1 h2 => ?_⟩
  · simp [State.flat_setFlat, byte_ne_decByte, byte_ne_decByte_decByte]
  · simp [State.flat_setFlat, byte_ne_decByte]
  · simp [State.flat_setFlat]
  · simp only [State.setSp_mem, State.setFlat_mem]
    rw [Memory.read_write_other _ _ h2, Memory.read_write_other _ _ h1, Memory.read_write_other _ _ h0]

/-- A byte above the stack page is as before the pushes. -/
theorem entry_pushes_flat_above {s : State} (h : s.params.wf = true) (ret : Word) (image : Byte) {w : Word}
    (hw : 0x200 ≤ w.toNat) : (push8 image (push16 ret s)).flat w = s.flat w := by
  obtain ⟨-, -, -, hother⟩ := entry_pushes_stacked h ret image
  have habove : ∀ sp : Byte, w.toNat ≠ (stackAddr sp).toNat := fun sp => by
    have := sp.isLt
    rw [stackAddr_toNat]
    omega
  exact hother _ (habove _) (habove _) (habove _)

/-- The state an exception entry leaves in a valid map, where its vector lies above the stack page. -/
theorem takeException_of_wf {s : State} (h : s.params.wf = true) (ret : Word) (brk : Bool) {vector : Word}
    (hlow : 0x200 ≤ vector.toNat) (hhigh : 0x200 ≤ (vector + 1).toNat) :
    takeException ret brk vector s = { s with
      pc := (read16 vector s).1
      sp := decByte (decByte (decByte s.sp))
      p := { s.p with i := true, d := if s.params.variant = .cmos then false else s.p.d }
      mem := (push8 (statusImage brk s.p) (push16 ret s)).mem
      hostLog := (read16 vector s).2.hostLog
      draws := (read16 vector s).2.draws } := by
  have hpushed : (push16 ret s).params.wf = true := by rwa [push16_params]
  have hlog : (push8 (statusImage brk s.p) (push16 ret s)).hostLog = s.hostLog :=
    (push8_hostLog_of_wf hpushed _).trans (push16_hostLog_of_wf h ret)
  have hsp : (push8 (statusImage brk s.p) (push16 ret s)).sp = decByte (decByte (decByte s.sp)) := by
    rw [push8_sp, push16_sp, byte_sub_one, byte_sub_one, byte_sub_one]
  have hread := fun q : Flags => read16_transfer (s := s) (u := (push8 (statusImage brk s.p) (push16 ret s)).setP q)
    (by simp) (entry_pushes_flat_above h ret (statusImage brk s.p) hlow)
    (entry_pushes_flat_above h ret (statusImage brk s.p) hhigh) (by simp) hlog (by simp)
  simp only [takeException, push8_p, push16_p, push8_params, push16_params, Flags.enter_eq]
  rw [hread, ← hsp, State.mk.injEq]
  simp

/-- The pushes and the vector's reads do not depend on PC, and the entry replaces it. -/
theorem takeException_advance (ret : Word) (brk : Bool) (vector : Word) (n : Nat) (s : State) :
    takeException ret brk vector (s.advance n) = takeException ret brk vector s := by
  have hentered : ∀ (t : State) (q : Flags), (t.advance n).setP q = (t.setP q).advance n := fun _ _ => rfl
  simp only [takeException, push16_advance, push8_advance, State.advance_p, State.advance_params, hentered, read16_advance]
  rfl

@[simp] theorem exec_brk (s : State) :
    exec .brk s = .next { takeException (pcAfter s 2) true irqVector s with clk := s.clk + 7 } := by
  rw [exec, execBrk, impliedInstr_next, takeException_advance, pc_add_two, ← takeException_clk (pcAfter s 2) true irqVector s]
  rfl

/-- Settles O50. -/
theorem breakEntry : Obligations.BreakEntry := by
  intro s hwf
  have hentry := takeException_of_wf hwf (pcAfter s 2) true (vector := irqVector) (by decide) (by decide)
  rw [exec_brk, hentry]
  exact ⟨_, rfl, rfl, entry_pushes_stacked hwf (pcAfter s 2) (statusImage true s.p)⟩

/-- What `Enter` leaves in a valid map (rule R504). -/
theorem interruptEntry_of_wf {s : State} (hwf : s.params.wf = true) {vector : Word} (hlow : 0x200 ≤ vector.toNat)
    (hhigh : 0x200 ≤ (vector + 1).toNat) :
    interruptEntry vector s = { s with
        pc := (read16 vector s).1
        sp := decByte (decByte (decByte s.sp))
        p := { s.p with i := true, d := if s.params.variant = .cmos then false else s.p.d }
        clk := s.clk + 7
        mem := (interruptEntry vector s).mem
        hostLog := (read16 vector s).2.hostLog
        draws := (read16 vector s).2.draws } ∧
      Stacked s (interruptEntry vector s) s.pc (statusImage false s.p) := by
  have hentry := takeException_of_wf hwf s.pc false hlow hhigh
  rw [interruptEntry, hentry]
  exact ⟨rfl, entry_pushes_stacked hwf s.pc (statusImage false s.p)⟩

theorem hostNmi_of_running {s : State} (h : s.halted = false) :
    hostEvent .nmi s = .next (interruptEntry nmiVector s) := by
  simp [hostEvent, hostNmi, enter, h]

theorem hostIrq_of_running {s : State} (h : s.halted = false) (hi : s.p.i = false) :
    hostEvent .irq s = .next (interruptEntry irqVector s) := by
  simp [hostEvent, hostIrq, enter, h, hi]

theorem hostIrq_masked {s : State} (hi : s.p.i = true) : hostEvent .irq s = .refused .irqMasked := by
  simp [hostEvent, hostIrq, hi]

/-- Settles O51. -/
theorem interruptEntries : Obligations.InterruptEntry := by
  intro s hwf hrun
  refine ⟨⟨_, hostNmi_of_running hrun, interruptEntry_of_wf hwf (by decide) (by decide)⟩,
    fun hi => ⟨_, hostIrq_of_running hrun hi, interruptEntry_of_wf hwf (by decide) (by decide)⟩, fun hi t => ?_⟩
  rw [hostIrq_masked hi]
  exact nofun

/-! ### Returning from an exception -/

theorem returnFromException_of_wf {s : State} (h : s.params.wf = true) :
    returnFromException s = { s with
      pc := wordPlus (s.flat (stackAddr (incByte (incByte (incByte s.sp)))))
        (s.flat (stackAddr (incByte (incByte s.sp)))) 0
      sp := incByte (incByte (incByte s.sp))
      p := statusLoad (s.flat (stackAddr (incByte s.sp))) } := by
  rw [returnFromException, pop8_of_wf h]
  simp only
  rw [pop16_of_wf (by exact h), wordPlus_zero]
  rfl

theorem returnFromException_advance (n : Nat) (s : State) :
    returnFromException (s.advance n) = returnFromException s := by
  have hloaded : ∀ (t : State) (q : Flags), (t.advance n).setP q = (t.setP q).advance n := fun _ _ => rfl
  simp only [returnFromException, pop8_advance, hloaded, pop16_advance]
  rfl

/-- RTI, whose hook is called with the charged `clk` (rules R106 and R359). -/
@[simp] theorem exec_rti (s : State) :
    exec .rti s = .next ({ returnFromException s with clk := s.clk + 6 } : State).callHook := by
  rw [exec, execRti, impliedInstr_next, returnFromException_advance, ← returnFromException_clk s]
  rfl

/-- Settles O53. -/
theorem returnFromInterrupt : Obligations.ReturnFromInterrupt := by
  intro s hwf
  rw [exec_rti, returnFromException_of_wf hwf]
  rfl

/-- RTI over the stack bytes of an entry gives the flags, SP and the return address back (rule R507). -/
theorem rti_of_stacked {s t : State} {ret : Word} {brk : Bool} (hwf : t.params.wf = true)
    (hsp : t.sp = decByte (decByte (decByte s.sp))) (hstacked : Stacked s t ret (statusImage brk s.p)) :
    ∃ u, exec .rti t = .next u ∧ u.pc = ret ∧ u.sp = s.sp ∧ u.p = s.p := by
  obtain ⟨hhi, hlo, himage, -⟩ := hstacked
  refine ⟨_, returnFromInterrupt t hwf, ?_, ?_, ?_⟩
  · simp only [hsp, incByte_decByte, hhi, hlo, wordPlus_zero, joinBytes_hiByte_loByte]
  · simp only [hsp, incByte_decByte]
  · simp only [hsp, incByte_decByte, himage, statusLoad_statusImage]

/-- Settles O54: each entry leaves the stack bytes that RTI pops. -/
theorem entryThenReturn : Obligations.EntryThenReturn := by
  intro s hwf hrun
  obtain ⟨t, hbrk, ht, hstacked⟩ := breakEntry s hwf
  obtain ⟨⟨n, hnmi, hn, hnstacked⟩, hirq, -⟩ := interruptEntries s hwf hrun
  refine ⟨?_, ?_, fun hi => ?_⟩
  · obtain ⟨u, hu⟩ := rti_of_stacked (by rw [ht]; exact hwf) (by rw [ht]) hstacked
    exact ⟨t, u, hbrk, hu⟩
  · obtain ⟨u, hu⟩ := rti_of_stacked (by rw [hn]; exact hwf) (by rw [hn]) hnstacked
    exact ⟨n, u, hnmi, hu⟩
  · obtain ⟨q, hq, hqs, hqstacked⟩ := hirq hi
    obtain ⟨u, hu⟩ := rti_of_stacked (by rw [hqs]; exact hwf) (by rw [hqs]) hqstacked
    exact ⟨q, u, hq, hu⟩

/-! ### Reset and register accessors -/

/-- The record of one read: none of a flat block, one of a handler block (rules R53 and R56). -/
theorem memRead_hostLog (w : Word) (s : State) :
    (memRead w s).2.hostLog =
      (if s.params.isFlat w = true then []
        else [.read (w.toNat / s.params.blockSize) w s.clk (memRead w s).1]) ++ s.hostLog := by
  cases hw : s.params.isFlat w with
  | true => rw [memRead_of_flat hw]; rfl
  | false => rw [memRead_of_handler hw]; rfl

/-- Settles O55: the reset vector's two reads, low byte first, over registers that reads leave alone. -/
theorem hostResetAndRegisterWrites : Obligations.HostResetAndRegisterWrites := by
  intro s
  refine ⟨⟨_, rfl, ?_, fun hv => ?_, ?_, ?_, ?_, ?_, (memRead 0xFFFC (resetRegisters s)).1,
    (memRead 0xFFFD (memRead 0xFFFC (resetRegisters s)).2).1, ?_, ?_, fun hflat => ?_, fun hflat => ?_⟩,
    fun v w n => ⟨rfl, rfl, rfl, rfl, rfl, rfl, rfl⟩⟩
  · simp [hostReset, resetRegisters]
  · simp [hostReset, resetRegisters, hv]
  · simp [hostReset, resetRegisters]
  · simp [hostReset, resetRegisters]
  · simp [hostReset, resetRegisters]
  · simp [hostReset, resetRegisters]
  · rw [wordPlus_zero]
    rfl
  · have hlog : (hostReset s).hostLog = (memRead 0xFFFD (memRead 0xFFFC (resetRegisters s)).2).2.hostLog := rfl
    rw [hlog, memRead_hostLog, memRead_hostLog, memRead_params, memRead_clk, List.append_assoc]
    rfl
  · rw [memRead_of_flat (s := resetRegisters s) hflat]
    rfl
  · rw [memRead_of_flat (by rw [memRead_params]; exact hflat), State.flat, memRead_mem]
    rfl

end Sys2Proof.Machine
end

section
/-! What every instruction changes (spec/10_state.md sections 1 and 3, spec/20_memory.md section 8 and
spec/40_dispatch_addressing.md): one statement says it of each instruction, and the claims about writers, calls, parameters and
soundness follow. -/

namespace Sys2Proof.Machine

/-! ### The record of the host's calls -/

/-- The call is of the breakout hook. -/
def HostCall.isHook : HostCall → Bool
  | .hook _ => true
  | _ => false

/-- The call is a handler write. -/
def HostCall.isWrite : HostCall → Bool
  | .write _ _ _ _ => true
  | _ => false

/-- The calls of the hook in a record. -/
def hooksIn (log : List HostCall) : List HostCall := log.filter HostCall.isHook

/-- The handler writes in a record. -/
def writesIn (log : List HostCall) : List HostCall := log.filter HostCall.isWrite

/-- Calls that leave the record's calls of a kind as they were are of another kind. -/
theorem not_mem_of_filter_append_eq {f : HostCall → Bool} {calls log : List HostCall} {c : HostCall}
    (h : (calls ++ log).filter f = log.filter f) (hc : f c = true) : c ∉ calls := by
  rw [List.filter_append] at h
  have hnone : calls.filter f = [] := List.append_cancel_right (h.trans (List.nil_append _).symm)
  exact fun hmem => List.filter_eq_nil_iff.mp hnone c hmem hc

@[simp] theorem memRead_hooksIn (w : Word) (s : State) : hooksIn (memRead w s).2.hostLog = hooksIn s.hostLog := by
  unfold memRead; split <;> rfl

@[simp] theorem memRead_writesIn (w : Word) (s : State) : writesIn (memRead w s).2.hostLog = writesIn s.hostLog := by
  unfold memRead; split <;> rfl

@[simp] theorem memWrite_hooksIn (w : Word) (v : Byte) (s : State) :
    hooksIn (memWrite w v s).hostLog = hooksIn s.hostLog := by
  unfold memWrite; split <;> rfl

@[simp] theorem operandOf_hooksIn (m : EaMode) (s : State) : hooksIn (operandOf m s).2.hostLog = hooksIn s.hostLog := by
  unfold operandOf EaMode.load; split <;> simp

@[simp] theorem ReadOp_load_hooksIn (r : ReadOp) (s : State) : hooksIn (r.load s).2.hostLog = hooksIn s.hostLog := by
  cases r with
  | imm b => rfl
  | mem m => exact operandOf_hooksIn m s

@[simp] theorem ReadOp_load_writesIn (r : ReadOp) (s : State) : writesIn (r.load s).2.hostLog = writesIn s.hostLog := by
  cases r with
  | imm b => rfl
  | mem m => unfold ReadOp.load EaMode.load; dsimp only; split <;> simp

@[simp] theorem read16_hooksIn (w : Word) (s : State) : hooksIn (read16 w s).2.hostLog = hooksIn s.hostLog := by
  simp [read16]

@[simp] theorem read16_writesIn (w : Word) (s : State) : writesIn (read16 w s).2.hostLog = writesIn s.hostLog := by
  simp [read16]

@[simp] theorem jumpTarget_hooksIn (m : JmpMode) (s : State) :
    hooksIn (jumpTarget m s).2.hostLog = hooksIn s.hostLog := by
  cases m with
  | abs w => rfl
  | ind w => cases hv : s.params.variant <;> simp [jumpTarget, hv, read16PageWrapped]
  | indX w => simp [jumpTarget]

@[simp] theorem jumpTarget_writesIn (m : JmpMode) (s : State) :
    writesIn (jumpTarget m s).2.hostLog = writesIn s.hostLog := by
  cases m with
  | abs w => rfl
  | ind w => cases hv : s.params.variant <;> simp [jumpTarget, hv, read16PageWrapped]
  | indX w => simp [jumpTarget]

@[simp] theorem push8_hooksIn (v : Byte) (s : State) : hooksIn (push8 v s).hostLog = hooksIn s.hostLog := by
  simp [push8]

@[simp] theorem push16_hooksIn (w : Word) (s : State) : hooksIn (push16 w s).hostLog = hooksIn s.hostLog := by
  simp [push16]

@[simp] theorem pop8_hooksIn (s : State) : hooksIn (pop8 s).2.hostLog = hooksIn s.hostLog := by
  simp [pop8]

@[simp] theorem pop8_writesIn (s : State) : writesIn (pop8 s).2.hostLog = writesIn s.hostLog := by
  simp [pop8]

@[simp] theorem pop16_hooksIn (s : State) : hooksIn (pop16 s).2.hostLog = hooksIn s.hostLog := by
  simp [pop16]

@[simp] theorem pop16_writesIn (s : State) : writesIn (pop16 s).2.hostLog = writesIn s.hostLog := by
  simp [pop16]

@[simp] theorem takeException_hooksIn (ret : Word) (brk : Bool) (vector : Word) (s : State) :
    hooksIn (takeException ret brk vector s).hostLog = hooksIn s.hostLog := by
  simp [takeException]

@[simp] theorem returnFromException_writesIn (s : State) :
    writesIn (returnFromException s).hostLog = writesIn s.hostLog := by
  simp [returnFromException]

/-! ### Frames -/

/-- A transition that writes no memory: nothing but registers, flags, `clk` and the record of reads and hook calls. -/
structure ReadsOnly (s t : State) : Prop where
  params : t.params = s.params
  halted : t.halted = s.halted
  mem : t.mem = s.mem
  writes : writesIn t.hostLog = writesIn s.hostLog

/-- A transition that may write memory: it keeps the parameters, the halted mark and memory's canonical form. -/
structure MayWrite (s t : State) : Prop where
  params : t.params = s.params
  halted : t.halted = s.halted
  canonical : Memory.wf s.mem = true → Memory.wf t.mem = true

theorem ReadsOnly.trans {s t u : State} (h : ReadsOnly s t) (k : ReadsOnly t u) : ReadsOnly s u :=
  ⟨k.params.trans h.params, k.halted.trans h.halted, k.mem.trans h.mem, k.writes.trans h.writes⟩

theorem takeException_mayWrite (ret : Word) (brk : Bool) (vector : Word) (s : State) :
    MayWrite s (takeException ret brk vector s) :=
  ⟨takeException_params ret brk vector s, takeException_halted ret brk vector s, takeException_keeps_wf ret brk vector s⟩

theorem MayWrite.set_clk {s t : State} (h : MayWrite s t) (n : Int) : MayWrite s { t with clk := n } :=
  ⟨h.params, h.halted, h.canonical⟩

theorem ReadsOnly.mayWrite {s t : State} (h : ReadsOnly s t) : MayWrite s t :=
  ⟨h.params, h.halted, fun hwf => by rwa [h.mem]⟩

/-- The frame of an instruction: what it may do to the fields that are neither registers nor flags. -/
structure Frame (i : Instr) (s t : State) : Prop where
  params : t.params = s.params
  halted : t.halted = true → s.halted = true ∨ s.params.nmosJamHalts = true
  canonical : Memory.wf s.mem = true → Memory.wf t.mem = true
  reads : i.writesMemory = false → ReadsOnly s { t with halted := s.halted }
  hooks : i.callsHook = false → hooksIn t.hostLog = hooksIn s.hostLog

theorem ReadsOnly.frame {i : Instr} {s t : State} (h : ReadsOnly s t) (hhooks : hooksIn t.hostLog = hooksIn s.hostLog) :
    Frame i s t where
  params := h.params
  halted := fun ht => .inl (h.halted ▸ ht)
  canonical := h.mayWrite.canonical
  reads := fun _ => ⟨h.params, rfl, h.mem, h.writes⟩
  hooks := fun _ => hhooks

theorem MayWrite.frame {i : Instr} {s t : State} (hi : i.writesMemory = true) (h : MayWrite s t)
    (hhooks : hooksIn t.hostLog = hooksIn s.hostLog) : Frame i s t where
  params := h.params
  halted := fun ht => .inl (h.halted ▸ ht)
  canonical := h.canonical
  reads := fun hno => absurd hi (by rw [hno]; exact Bool.false_ne_true)
  hooks := fun _ => hhooks

/-- The frame of an instruction that calls the hook last. -/
theorem ReadsOnly.frame_callHook {i : Instr} {s t : State} (hi : i.callsHook = true) (h : ReadsOnly s t) :
    Frame i s t.callHook where
  params := h.params
  halted := fun ht => .inl (h.halted ▸ ht)
  canonical := h.mayWrite.canonical
  reads := fun _ => ⟨h.params, rfl, h.mem, h.writes⟩
  hooks := fun hno => absurd hi (by rw [hno]; exact Bool.false_ne_true)

theorem frame_afterRead (i : Instr) (r : ReadOp) (extra : Nat) (s : State) (a x y sp : Byte) (p : Flags) :
    Frame i s { afterRead r extra s a x y p with sp := sp } :=
  ReadsOnly.frame ⟨rfl, rfl, rfl, ReadOp_load_writesIn r s⟩ (ReadOp_load_hooksIn r s)

theorem frame_afterImplied (i : Instr) (cycles : Nat) (s : State) (a x y sp : Byte) (p : Flags) :
    Frame i s (afterImplied cycles s a x y sp p) := ReadsOnly.frame ⟨rfl, rfl, rfl, rfl⟩ rfl

theorem frame_afterImm (i : Instr) (s : State) (a x : Byte) (p : Flags) : Frame i s (afterImm s a x p) :=
  ReadsOnly.frame ⟨rfl, rfl, rfl, rfl⟩ rfl

theorem frame_idled (i : Instr) (s : State) (len cycles : Nat) : Frame i s (idled s len cycles) :=
  ReadsOnly.frame ⟨rfl, rfl, rfl, rfl⟩ rfl

theorem frame_branched (i : Instr) (s : State) (b : Byte) (cond : Bool) : Frame i s (branched s b cond) := by
  cases cond <;> exact ReadsOnly.frame ⟨rfl, rfl, rfl, rfl⟩ rfl

theorem frame_jumped (i : Instr) (m : JmpMode) (s : State) (cycles : Int) :
    Frame i s (jumped s (jumpTarget m s) cycles) :=
  ReadsOnly.frame ⟨rfl, rfl, rfl, jumpTarget_writesIn m s⟩ (jumpTarget_hooksIn m s)

theorem readsOnly_afterPull (cycles : Nat) (s : State) (a x y : Byte) (p : Flags) :
    ReadsOnly s (afterPull cycles s a x y p) := ⟨pop8_params s, pop8_halted s, pop8_mem s, pop8_writesIn s⟩

theorem frame_afterPull (i : Instr) (cycles : Nat) (s : State) (a x y : Byte) (p : Flags) :
    Frame i s (afterPull cycles s a x y p) := (readsOnly_afterPull cycles s a x y p).frame (pop8_hooksIn s)

theorem frame_afterStore {i : Instr} (hi : i.writesMemory = true) (s : State) (sp : Byte) (w : Word) (v : Byte)
    (len cycles : Nat) : Frame i s (afterStore s sp w v len cycles) :=
  MayWrite.frame hi ⟨memWrite_params w v s, memWrite_halted w v s, memWrite_keeps_wf w v s⟩ (memWrite_hooksIn w v s)

theorem frame_afterRmw {i : Instr} (hi : i.writesMemory = true) (m : EaMode) (s : State) (r a : Byte) (p : Flags) :
    Frame i s (afterRmw m s r a p) := by
  refine MayWrite.frame hi ⟨?_, ?_, fun hwf => ?_⟩ ?_
  · simp [afterRmw, operandOf]
  · simp [afterRmw, operandOf]
  · exact memWrite_keeps_wf _ r _ (by simpa [operandOf] using hwf)
  · simp [afterRmw]

/-- Every instruction has a next state, and the frame it is in says what else but registers and flags it changes. -/
theorem exec_frame (i : Instr) (s : State) : ∃ t, exec i s = .next t ∧ Frame i s t := by
  cases i with
  | lda r | ldx r | ldy r | ora r | and r | eor r | adc r | sbc r | sbcEb b | cmp r | cpx r | cpy r | bit m | bitImm b
  | lax m =>
    simp only [exec_lda, exec_ldx, exec_ldy, exec_ora, exec_and, exec_eor, exec_adc, exec_sbc, exec_sbcEb, exec_cmp,
      exec_cpx, exec_cpy, exec_bit, exec_bitImm, exec_lax]
    exact ⟨_, rfl, frame_afterRead _ _ _ s _ _ _ s.sp _⟩
  | las w =>
    rw [exec_las]
    exact ⟨_, rfl, frame_afterRead _ _ _ s _ _ _ _ _⟩
  | tax | tay | txa | tya | tsx | txs | inx | iny | dex | dey | ina | dea | clc | sec | sei | clv | cld | sed =>
    simp only [exec_tax, exec_tay, exec_txa, exec_tya, exec_tsx, exec_txs, exec_inx, exec_iny, exec_dex, exec_dey, exec_ina,
      exec_dea, exec_clc, exec_sec, exec_sei, exec_clv, exec_cld, exec_sed]
    exact ⟨_, rfl, frame_afterImplied _ _ s _ _ _ _ _⟩
  | cli =>
    rw [exec_cli]
    exact ⟨_, rfl, ReadsOnly.frame_callHook rfl ⟨rfl, rfl, rfl, rfl⟩⟩
  | lxa b | anc b | anc2b b | alr b | arr b | xaa b | axs b =>
    simp only [exec_lxa, exec_anc, exec_anc2b, exec_alr, exec_arr, exec_xaa, exec_axs]
    exact ⟨_, rfl, frame_afterImm _ s _ _ _⟩
  | asl r | lsr r | rol r | ror r =>
    cases r with
    | acc =>
      simp only [exec_asl_acc, exec_lsr_acc, exec_rol_acc, exec_ror_acc]
      exact ⟨_, rfl, frame_afterImplied _ _ s _ _ _ _ _⟩
    | mem m =>
      simp only [exec_asl_mem, exec_lsr_mem, exec_rol_mem, exec_ror_mem]
      exact ⟨_, rfl, frame_afterRmw rfl m s _ _ _⟩
  | inc m | dec m | tsb m | trb m | slo m | rla m | sre m | rra m | dcp m | isb m =>
    simp only [exec_inc, exec_dec, exec_tsb, exec_trb, exec_slo, exec_rla, exec_sre, exec_rra, exec_dcp, exec_isb]
    exact ⟨_, rfl, frame_afterRmw rfl m s _ _ _⟩
  | sta m | stx m | sty m | stz m | sax m | ahx m | tas w | shy w | shx w | pha | php | phx | phy =>
    simp only [exec_sta, exec_stx, exec_sty, exec_stz, exec_sax, exec_ahx, exec_tas, exec_shy, exec_shx, exec_pha, exec_php,
      exec_phx, exec_phy]
    exact ⟨_, rfl, frame_afterStore rfl s _ _ _ _ _⟩
  | bpl b | bmi b | bvc b | bvs b | bcc b | bcs b | bne b | beq b | bra b =>
    simp only [exec_bpl, exec_bmi, exec_bvc, exec_bvs, exec_bcc, exec_bcs, exec_bne, exec_beq, exec_bra]
    exact ⟨_, rfl, frame_branched _ s b _⟩
  | jmp m =>
    rw [exec_jmp]
    exact ⟨_, rfl, frame_jumped _ m s _⟩
  | jsr w =>
    rw [exec_jsr]
    exact ⟨_, rfl, MayWrite.frame rfl ⟨push16_params _ s, push16_halted _ s, push16_keeps_wf _ s⟩ (push16_hooksIn _ s)⟩
  | rts =>
    rw [exec_rts]
    exact ⟨_, rfl, ReadsOnly.frame ⟨pop16_params s, pop16_halted s, pop16_mem s, pop16_writesIn s⟩ (pop16_hooksIn s)⟩
  | pla | plx | ply =>
    simp only [exec_pla, exec_plx, exec_ply]
    exact ⟨_, rfl, frame_afterPull _ _ s _ _ _ _⟩
  | plp =>
    rw [exec_plp]
    exact ⟨_, rfl, (readsOnly_afterPull _ s _ _ _ _).frame_callHook rfl⟩
  | brk =>
    rw [exec_brk]
    exact ⟨_, rfl, MayWrite.frame rfl ((takeException_mayWrite (pcAfter s 2) true irqVector s).set_clk _)
      (takeException_hooksIn (pcAfter s 2) true irqVector s)⟩
  | rti =>
    rw [exec_rti]
    exact ⟨_, rfl, ReadsOnly.frame_callHook rfl ⟨returnFromException_params s, returnFromException_halted s,
      returnFromException_mem s, returnFromException_writesIn s⟩⟩
  | nop | nopUndoc op f | nopBad op f =>
    simp only [exec_nop, exec_nopUndoc, exec_nopBad]
    exact ⟨_, rfl, frame_idled _ s _ _⟩
  | jam op b =>
    rw [exec_jam]
    split_ifs with hhalts
    · exact ⟨_, rfl, rfl, fun _ => .inr hhalts, id, fun _ => ⟨rfl, rfl, rfl, rfl⟩, fun _ => rfl⟩
    · exact ⟨_, rfl, frame_idled _ s _ _⟩

/-- The frame of a next state that is given. -/
theorem frame_of_exec {i : Instr} {s t : State} (h : exec i s = .next t) : Frame i s t := by
  obtain ⟨u, hu, hframe⟩ := exec_frame i s
  rw [h] at hu
  cases hu
  exact hframe

/-- Settles O15: an instruction that is no writer only reads. -/
theorem memoryWriters : Obligations.MemoryWriters := by
  intro i s t h hi
  have hreads := (frame_of_exec h).reads hi
  refine ⟨hreads.mem, fun calls hcalls b a c v => ?_⟩
  have hwrites : writesIn t.hostLog = writesIn s.hostLog := hreads.writes
  rw [hcalls] at hwrites
  exact not_mem_of_filter_append_eq hwrites rfl

/-- The three instructions that call the hook call it last, and `clk` takes its answer (rule R106). -/
theorem exec_callHook {i : Instr} (hi : i.callsHook = true) (s : State) : ∃ u : State, exec i s = .next u.callHook := by
  cases i with
  | cli => exact ⟨_, exec_cli s⟩
  | plp => exact ⟨_, exec_plp s⟩
  | rti => exact ⟨_, exec_rti s⟩
  | _ => cases hi

/-- Settles O12. -/
theorem hookAfterCliPlpRtiOnly : Obligations.HookAfterCliPlpRtiOnly := by
  intro i s t h
  refine ⟨fun hi => ?_, fun hi calls hcalls c => ?_⟩
  · obtain ⟨u, hu⟩ := exec_callHook hi s
    rw [h] at hu
    cases hu
    exact ⟨u.clk, u.draws, rfl, rfl⟩
  · have hhooks := (frame_of_exec h).hooks hi
    rw [hcalls] at hhooks
    exact not_mem_of_filter_append_eq hhooks rfl

/-! ### Steps and host transitions -/

theorem fetchOperands_readsOnly (len : Nat) (s : State) : ReadsOnly s (fetchOperands len s).2 := by
  match len with
  | 0 | 1 => exact ⟨rfl, rfl, rfl, rfl⟩
  | 2 => constructor <;> simp [fetchOperands]
  | n + 3 => constructor <;> simp [fetchOperands]

/-- A step of a running machine is its instruction's meaning, after a fetch that only reads (rules R100 to R102). -/
theorem step_eq_exec {s : State} (h : s.halted = false) : ∃ i u, step s = exec i u ∧ ReadsOnly s u := by
  have hop : ReadsOnly s (memRead s.pc s).2 :=
    ⟨memRead_params s.pc s, memRead_halted s.pc s, memRead_mem s.pc s, memRead_writesIn s.pc s⟩
  simp only [step, fetch, h, Bool.false_eq_true, if_false]
  exact ⟨_, _, rfl, hop.trans (fetchOperands_readsOnly _ _)⟩

theorem step_of_halted {s : State} (h : s.halted = true) : step s = .fault .halted := by
  simp [step, fetch, h]

/-- Settles O6: the fetch of a running machine gives an instruction, and every instruction has a next state. -/
theorem stepNeverFails : Obligations.StepNeverFails := by
  intro s h
  obtain ⟨i, u, hstep, -⟩ := step_eq_exec h
  obtain ⟨t, ht, -⟩ := exec_frame i u
  exact ⟨t, hstep.trans ht⟩

/-- What every transition keeps: the parameters, and the three parts of a sound state. -/
structure Keeps (s t : State) : Prop where
  params : t.params = s.params
  canonical : Memory.wf s.mem = true → Memory.wf t.mem = true
  halted : t.halted = true → s.halted = true ∨ s.params.nmosJamHalts = true

theorem MayWrite.keeps {s t : State} (h : MayWrite s t) : Keeps s t :=
  ⟨h.params, h.canonical, fun ht => .inl (h.halted ▸ ht)⟩

theorem step_keeps {s t : State} (h : step s = .next t) : Keeps s t := by
  cases hs : s.halted with
  | true =>
    rw [step_of_halted hs] at h
    cases h
  | false =>
    obtain ⟨i, u, hstep, hread⟩ := step_eq_exec hs
    have hframe := frame_of_exec (hstep.symm.trans h)
    refine ⟨hframe.params.trans hread.params, fun hwf => hframe.canonical (by rwa [hread.mem]), fun ht => ?_⟩
    rw [← hread.halted, ← hread.params]
    exact hframe.halted ht

theorem interruptEntry_mayWrite (vector : Word) (s : State) : MayWrite s (interruptEntry vector s) :=
  (takeException_mayWrite s.pc false vector s).set_clk _

theorem hostReset_keeps (s : State) : Keeps s (hostReset s) := by
  constructor <;> simp [hostReset, resetRegisters]

/-- The entries of a running core, and what an entry is that has a next state (rules R502 to R504, R510). -/
theorem enter_keeps {vector : Word} {s t : State} (h : enter vector s = .next t) : Keeps s t := by
  rw [enter] at h
  split_ifs at h
  cases h
  exact (interruptEntry_mayWrite vector s).keeps

theorem hostEvent_keeps {e : HostEvent} {s t : State} (h : hostEvent e s = .next t) : Keeps s t := by
  cases e with
  | irq =>
    rw [hostEvent, hostIrq] at h
    split_ifs at h
    exact enter_keeps h
  | nmi => exact enter_keeps h
  | reset =>
    cases h
    exact hostReset_keeps s
  | writeA v | writeX v | writeY v | writeSp v | writePc w | writeP v | writeClk n =>
    cases h
    exact ⟨rfl, id, .inl⟩

theorem transition_keeps {s t : State} (h : Transition s t) : Keeps s t := by
  cases h with
  | step h => exact step_keeps h
  | host e h => exact hostEvent_keeps h

/-- Settles O8: no transition writes a parameter, every store keeps memory canonical, and only a JAM under its parameter sets
the halted mark. -/
theorem transitionsKeepInv : Obligations.TransitionsKeepInv := by
  intro s t hinv h
  obtain ⟨hparams, hcanonical, hhalted⟩ := transition_keeps h
  refine ⟨hcanonical hinv.memory, by rw [hparams]; exact hinv.params, fun ht => ?_⟩
  rw [hparams]
  exact (hhalted ht).elim hinv.halt id

/-- Settles O10. -/
theorem parametersNeverChange : Obligations.ParametersNeverChange := fun _ _ h => (transition_keeps h).params

/-- Settles O7: the fetch and the entries ask for the mark, and reset clears it. -/
theorem haltedTakesOnlyReset : Obligations.HaltedTakesOnlyReset := by
  intro s h
  have henter : ∀ vector, enter vector s = .fault .halted := fun vector => by rw [enter, h]; rfl
  refine ⟨fun t => ?_, fun t => ?_, fun t => ?_, hostReset s, rfl, by simp [hostReset, resetRegisters]⟩
  · rw [step_of_halted h]
    exact nofun
  · rw [hostEvent, hostIrq, henter]
    split_ifs <;> exact nofun
  · rw [hostEvent, hostNmi, henter]
    exact nofun

/-- Settles O9. -/
theorem resetStateIsSound : Obligations.ResetStateIsSound :=
  ⟨⟨reset_memory_wf, by decide, nofun⟩, rfl, rfl, rfl⟩

/-- Settles O52: the branches of the priority, in their order. -/
theorem eventPriority : Obligations.EventPriority := by
  intro q s
  refine ⟨fun hr => ?_, fun hr hh => ?_, fun hr hh hn => ?_, fun hr hh hn hq hi => ?_, fun hr hn hq => ?_⟩
  · rw [boundaryEvent, if_pos hr]
  · simp [boundaryEvent, hr, hh]
  · simp [boundaryEvent, hr, hh, hn]
  · simp [boundaryEvent, hr, hh, hn, hq, hi]
  · obtain hq | hi := hq
    · simp [boundaryEvent, hr, hn, hq]
    · simp [boundaryEvent, hr, hn, hi]

/-! ### Fetch -/

/-- What a list of three bytes decodes to, by the length that its first asks for. -/
theorem decode_three_bytes {v : Variant} {op b1 b2 : Byte} {i : Instr} {rest : List Byte}
    (h : decode v [op, b1, b2] = .ok (i, rest)) :
    (opLength v op = 1 ∧ i = decodeOp v op 0 0 ∨ opLength v op = 2 ∧ i = decodeOp v op b1 0 ∨
      opLength v op = 3 ∧ i = decodeOp v op b1 b2) ∧ i.length = opLength v op := by
  obtain hlen | hlen | hlen := opLength_cases v op <;>
  · simp only [decode, hlen, Except.ok.injEq, Prod.mk.injEq] at h
    simp [← h.1, hlen, length_decodeOp]

/-- Settles O5: the fetch reads as many bytes as the instruction has, and a flat byte's read changes nothing. -/
theorem stepRunsTheDecodedInstruction : Obligations.StepRunsTheDecodedInstruction := by
  intro s i rest hrun
  constructor
  · intro op b1 b2 hdecode
    obtain ⟨hcases, hlength⟩ := decode_three_bytes hdecode
    rw [hlength]
    obtain ⟨hlen, rfl⟩ | ⟨hlen, rfl⟩ | ⟨hlen, rfl⟩ := hcases <;>
      simp [step, fetch, hrun, fetchOperands, hlen, op, b1, b2]
  · intro hflat hdecode
    obtain ⟨hcases, hlength⟩ := decode_three_bytes hdecode
    rw [hlength] at hflat
    have h0 : memRead s.pc s = (s.flat s.pc, s) := memRead_of_flat (by simpa using hflat 0 (by omega))
    obtain ⟨hlen, rfl⟩ | ⟨hlen, rfl⟩ | ⟨hlen, rfl⟩ := hcases
    · simp [step, fetch, hrun, h0, fetchOperands, hlen]
    · have h1 : memRead (s.pc + 1) s = (s.flat (s.pc + 1), s) := memRead_of_flat (hflat 1 (by omega))
      simp only [step, fetch, hrun, h0, fetchOperands, hlen, h1]
      rfl
    · have h1 : memRead (s.pc + 1) s = (s.flat (s.pc + 1), s) := memRead_of_flat (hflat 1 (by omega))
      have h2 : memRead (s.pc + 2) s = (s.flat (s.pc + 2), s) := memRead_of_flat (hflat 2 (by omega))
      simp only [step, fetch, hrun, h0, fetchOperands, hlen, h1, h2]
      rfl

end Sys2Proof.Machine
end

section
/-! Who writes the registers and the flags (spec/10_state.md sections 1 and 3). -/

namespace Sys2Proof.Machine

/-! ### Registers -/

theorem afterStore_registers (s : State) (sp v : Byte) (w : Word) (len cycles : Nat) :
    (afterStore s sp w v len cycles).a = s.a ∧ (afterStore s sp w v len cycles).x = s.x ∧
      (afterStore s sp w v len cycles).y = s.y ∧ (afterStore s sp w v len cycles).p = s.p := by
  simp [afterStore]

theorem afterRmw_registers (m : EaMode) (s : State) (r a : Byte) (p : Flags) :
    (afterRmw m s r a p).x = s.x ∧ (afterRmw m s r a p).y = s.y ∧ (afterRmw m s r a p).sp = s.sp := by
  simp [afterRmw, operandOf]

theorem branched_registers (s : State) (b : Byte) (cond : Bool) :
    (branched s b cond).a = s.a ∧ (branched s b cond).x = s.x ∧ (branched s b cond).y = s.y ∧
      (branched s b cond).sp = s.sp ∧ (branched s b cond).p = s.p := by
  cases cond <;> exact ⟨rfl, rfl, rfl, rfl, rfl⟩

/-- Between these states no register changes but those that the instruction writes (rules R20 and R21). -/
def KeepsRegisters (i : Instr) (s t : State) : Prop :=
  (i.writesA = false → t.a = s.a) ∧ (i.writesX = false → t.x = s.x) ∧ (i.writesY = false → t.y = s.y) ∧
    (i.writesSp = false → t.sp = s.sp)

theorem KeepsRegisters.set_clk {i : Instr} {s t : State} (h : KeepsRegisters i s t) (n : Int) :
    KeepsRegisters i s { t with clk := n } := h

theorem keepsRegisters_brk (ret vector : Word) (s : State) : KeepsRegisters .brk s (takeException ret true vector s) :=
  ⟨fun _ => takeException_a ret true vector s, fun _ => takeException_x ret true vector s,
    fun _ => takeException_y ret true vector s, nofun⟩

/-- What holds of the next state holds of a next state that is given. -/
theorem of_exec {P : State → Prop} {i : Instr} {s t : State} (hP : ∃ u, exec i s = .next u ∧ P u)
    (h : exec i s = .next t) : P t := by
  obtain ⟨u, hu, hPu⟩ := hP
  rw [h] at hu
  cases hu
  exact hPu

/-- The instructions grouped by the registers that they write. -/
theorem exec_keepsRegisters (i : Instr) (s : State) : ∃ t, exec i s = .next t ∧ KeepsRegisters i s t := by
  cases i with
  | lda r | ora r | and r | eor r | adc r | sbc r | sbcEb b | txa | tya | ina | dea | anc b | anc2b b | alr b | arr b
  | xaa b =>
    simp only [exec_lda, exec_ora, exec_and, exec_eor, exec_adc, exec_sbc, exec_sbcEb, exec_txa, exec_tya, exec_ina, exec_dea,
      exec_anc, exec_anc2b, exec_alr, exec_arr, exec_xaa]
    exact ⟨_, rfl, nofun, fun _ => rfl, fun _ => rfl, fun _ => rfl⟩
  | lax m | lxa b =>
    simp only [exec_lax, exec_lxa]
    exact ⟨_, rfl, nofun, nofun, fun _ => rfl, fun _ => rfl⟩
  | las w =>
    rw [exec_las]
    exact ⟨_, rfl, nofun, nofun, fun _ => rfl, nofun⟩
  | ldx r | tax | tsx | inx | dex | axs b =>
    simp only [exec_ldx, exec_tax, exec_tsx, exec_inx, exec_dex, exec_axs]
    exact ⟨_, rfl, fun _ => rfl, nofun, fun _ => rfl, fun _ => rfl⟩
  | ldy r | tay | iny | dey =>
    simp only [exec_ldy, exec_tay, exec_iny, exec_dey]
    exact ⟨_, rfl, fun _ => rfl, fun _ => rfl, nofun, fun _ => rfl⟩
  | txs =>
    rw [exec_txs]
    exact ⟨_, rfl, fun _ => rfl, fun _ => rfl, fun _ => rfl, nofun⟩
  | cmp r | cpx r | cpy r | bit m | bitImm b | clc | sec | cli | sei | clv | cld | sed | jmp m | nop | nopUndoc op f
  | nopBad op f =>
    simp only [exec_cmp, exec_cpx, exec_cpy, exec_bit, exec_bitImm, exec_clc, exec_sec, exec_cli, exec_sei, exec_clv, exec_cld,
      exec_sed, exec_jmp, exec_nop, exec_nopUndoc, exec_nopBad]
    exact ⟨_, rfl, fun _ => rfl, fun _ => rfl, fun _ => rfl, fun _ => rfl⟩
  | jam op b =>
    rw [exec_jam]
    split_ifs <;> exact ⟨_, rfl, fun _ => rfl, fun _ => rfl, fun _ => rfl, fun _ => rfl⟩
  | bpl b | bmi b | bvc b | bvs b | bcc b | bcs b | bne b | beq b | bra b =>
    simp only [exec_bpl, exec_bmi, exec_bvc, exec_bvs, exec_bcc, exec_bcs, exec_bne, exec_beq, exec_bra]
    obtain ⟨ha, hx, hy, hsp, -⟩ := branched_registers s b _
    exact ⟨_, rfl, fun _ => ha, fun _ => hx, fun _ => hy, fun _ => hsp⟩
  | asl r | lsr r | rol r | ror r =>
    cases r with
    | acc =>
      simp only [exec_asl_acc, exec_lsr_acc, exec_rol_acc, exec_ror_acc]
      exact ⟨_, rfl, nofun, fun _ => rfl, fun _ => rfl, fun _ => rfl⟩
    | mem m =>
      simp only [exec_asl_mem, exec_lsr_mem, exec_rol_mem, exec_ror_mem]
      obtain ⟨hx, hy, hsp⟩ := afterRmw_registers m s _ _ _
      exact ⟨_, rfl, fun _ => rfl, fun _ => hx, fun _ => hy, fun _ => hsp⟩
  | inc m | dec m | tsb m | trb m | dcp m =>
    simp only [exec_inc, exec_dec, exec_tsb, exec_trb, exec_dcp]
    obtain ⟨hx, hy, hsp⟩ := afterRmw_registers m s _ _ _
    exact ⟨_, rfl, fun _ => rfl, fun _ => hx, fun _ => hy, fun _ => hsp⟩
  | slo m | rla m | sre m | rra m | isb m =>
    simp only [exec_slo, exec_rla, exec_sre, exec_rra, exec_isb]
    obtain ⟨hx, hy, hsp⟩ := afterRmw_registers m s _ _ _
    exact ⟨_, rfl, nofun, fun _ => hx, fun _ => hy, fun _ => hsp⟩
  | sta m | stx m | sty m | stz m | sax m | ahx m | shy w | shx w =>
    simp only [exec_sta, exec_stx, exec_sty, exec_stz, exec_sax, exec_ahx, exec_shy, exec_shx]
    obtain ⟨ha, hx, hy, -⟩ := afterStore_registers s s.sp _ _ _ _
    exact ⟨_, rfl, fun _ => ha, fun _ => hx, fun _ => hy, fun _ => rfl⟩
  | tas w | pha | php | phx | phy =>
    simp only [exec_tas, exec_pha, exec_php, exec_phx, exec_phy]
    obtain ⟨ha, hx, hy, -⟩ := afterStore_registers s _ _ _ _ _
    exact ⟨_, rfl, fun _ => ha, fun _ => hx, fun _ => hy, nofun⟩
  | pla =>
    rw [exec_pla]
    exact ⟨_, rfl, nofun, fun _ => rfl, fun _ => rfl, nofun⟩
  | plx =>
    rw [exec_plx]
    exact ⟨_, rfl, fun _ => rfl, nofun, fun _ => rfl, nofun⟩
  | ply =>
    rw [exec_ply]
    exact ⟨_, rfl, fun _ => rfl, fun _ => rfl, nofun, nofun⟩
  | plp =>
    rw [exec_plp]
    exact ⟨_, rfl, fun _ => rfl, fun _ => rfl, fun _ => rfl, nofun⟩
  | jsr w =>
    rw [exec_jsr]
    exact ⟨_, rfl, fun _ => push16_a _ s, fun _ => push16_x _ s, fun _ => push16_y _ s, nofun⟩
  | rts =>
    rw [exec_rts]
    exact ⟨_, rfl, fun _ => pop16_a s, fun _ => pop16_x s, fun _ => pop16_y s, nofun⟩
  | brk =>
    rw [exec_brk]
    exact ⟨_, rfl, (keepsRegisters_brk (pcAfter s 2) irqVector s).set_clk _⟩
  | rti =>
    rw [exec_rti]
    exact ⟨_, rfl, fun _ => returnFromException_a s, fun _ => returnFromException_x s,
      fun _ => returnFromException_y s, nofun⟩

/-- Settles O14. -/
theorem registerWriters : Obligations.RegisterWriters := fun i s _ h => of_exec (exec_keepsRegisters i s) h

/-! ### Flags -/

/-- From flags `p` to flags `q` nothing but what the instruction writes changes (rule R28). -/
def KeepsFlags (i : Instr) (v : Variant) (p q : Flags) : Prop :=
  (i.writesN = false → q.n = p.n) ∧ (i.writesV = false → q.v = p.v) ∧ (i.writesD v = false → q.d = p.d) ∧
    (i.writesI = false → q.i = p.i) ∧ (i.writesZ = false → q.z = p.z) ∧ (i.writesC = false → q.c = p.c)

theorem keepsFlags_of_eq {i : Instr} {v : Variant} {p q : Flags} (h : q = p) : KeepsFlags i v p q := by
  subst h
  exact ⟨fun _ => rfl, fun _ => rfl, fun _ => rfl, fun _ => rfl, fun _ => rfl, fun _ => rfl⟩

theorem keepsFlags_testZ {i : Instr} {v : Variant} {p : Flags} {a m : Byte} (hZ : i.writesZ = true) :
    KeepsFlags i v p (p.testZ a m) := by
  simp [KeepsFlags, Flags.testZ, hZ]

theorem keepsFlags_nz {i : Instr} {v : Variant} {p : Flags} {b : Byte} (hN : i.writesN = true) (hZ : i.writesZ = true) :
    KeepsFlags i v p (nz p b) := by
  simp [KeepsFlags, nz, hN, hZ]

theorem keepsFlags_nzc {i : Instr} {v : Variant} {p : Flags} {b : Byte} {c : Prop} [Decidable c] (hN : i.writesN = true)
    (hZ : i.writesZ = true) (hC : i.writesC = true) : KeepsFlags i v p (nzc p b c) := by
  simp [KeepsFlags, nzc, nz, hN, hZ, hC]

theorem keepsFlags_compared {i : Instr} {v : Variant} {p : Flags} {r m : Byte} (hN : i.writesN = true)
    (hZ : i.writesZ = true) (hC : i.writesC = true) : KeepsFlags i v p (compared p r m) := by
  simp [KeepsFlags, compared, hN, hZ, hC]

theorem keepsFlags_arith {i : Instr} {v : Variant} {p : Flags} {r : FlagResult} (hN : i.writesN = true)
    (hV : i.writesV = true) (hZ : i.writesZ = true) (hC : i.writesC = true) : KeepsFlags i v p (arith p r) := by
  simp [KeepsFlags, arith, hN, hV, hZ, hC]

theorem keepsFlags_brk {v : Variant} {p q : Flags} (h : q = p.enter v) : KeepsFlags .brk v p q := by
  subst h
  cases v with
  | nmos => exact ⟨fun _ => rfl, fun _ => rfl, fun _ => rfl, nofun, fun _ => rfl, fun _ => rfl⟩
  | cmos => exact ⟨fun _ => rfl, fun _ => rfl, nofun, nofun, fun _ => rfl, fun _ => rfl⟩

/-- The instructions grouped by the way that they set the flags. -/
theorem exec_keepsFlags (i : Instr) (s : State) :
    ∃ t, exec i s = .next t ∧ KeepsFlags i s.params.variant s.p t.p := by
  cases i with
  | lda r | ldx r | ldy r | lax m | las w | ora r | and r | eor r | tax | tay | txa | tya | tsx | inx | iny | dex | dey | ina
  | dea | lxa b | xaa b | inc m | dec m | pla | plx | ply =>
    simp only [exec_lda, exec_ldx, exec_ldy, exec_lax, exec_las, exec_ora, exec_and, exec_eor, exec_tax, exec_tay, exec_txa,
      exec_tya, exec_tsx, exec_inx, exec_iny, exec_dex, exec_dey, exec_ina, exec_dea, exec_lxa, exec_xaa, exec_inc, exec_dec,
      exec_pla, exec_plx, exec_ply]
    exact ⟨_, rfl, keepsFlags_nz rfl rfl⟩
  | anc b | anc2b b | alr b | axs b | slo m | rla m | sre m =>
    simp only [exec_anc, exec_anc2b, exec_alr, exec_axs, exec_slo, exec_rla, exec_sre]
    exact ⟨_, rfl, keepsFlags_nzc rfl rfl rfl⟩
  | asl r | lsr r | rol r | ror r =>
    cases r with
    | acc =>
      simp only [exec_asl_acc, exec_lsr_acc, exec_rol_acc, exec_ror_acc]
      exact ⟨_, rfl, keepsFlags_nzc rfl rfl rfl⟩
    | mem m =>
      simp only [exec_asl_mem, exec_lsr_mem, exec_rol_mem, exec_ror_mem]
      exact ⟨_, rfl, keepsFlags_nzc rfl rfl rfl⟩
  | cmp r | cpx r | cpy r | dcp m =>
    simp only [exec_cmp, exec_cpx, exec_cpy, exec_dcp]
    exact ⟨_, rfl, keepsFlags_compared rfl rfl rfl⟩
  | adc r | sbc r | sbcEb b | arr b | rra m | isb m =>
    simp only [exec_adc, exec_sbc, exec_sbcEb, exec_arr, exec_rra, exec_isb]
    exact ⟨_, rfl, keepsFlags_arith rfl rfl rfl rfl⟩
  | bitImm b | tsb m | trb m =>
    simp only [exec_bitImm, exec_tsb, exec_trb]
    exact ⟨_, rfl, keepsFlags_testZ rfl⟩
  | bit m =>
    rw [exec_bit]
    exact ⟨_, rfl, nofun, nofun, fun _ => rfl, fun _ => rfl, nofun, fun _ => rfl⟩
  | clc | sec =>
    simp only [exec_clc, exec_sec]
    exact ⟨_, rfl, fun _ => rfl, fun _ => rfl, fun _ => rfl, fun _ => rfl, fun _ => rfl, nofun⟩
  | cli | sei =>
    simp only [exec_cli, exec_sei]
    exact ⟨_, rfl, fun _ => rfl, fun _ => rfl, fun _ => rfl, nofun, fun _ => rfl, fun _ => rfl⟩
  | clv =>
    rw [exec_clv]
    exact ⟨_, rfl, fun _ => rfl, nofun, fun _ => rfl, fun _ => rfl, fun _ => rfl, fun _ => rfl⟩
  | cld | sed =>
    simp only [exec_cld, exec_sed]
    exact ⟨_, rfl, fun _ => rfl, fun _ => rfl, nofun, fun _ => rfl, fun _ => rfl, fun _ => rfl⟩
  | plp =>
    rw [exec_plp]
    exact ⟨_, rfl, nofun, nofun, nofun, nofun, nofun, nofun⟩
  | rti =>
    rw [exec_rti]
    exact ⟨_, rfl, nofun, nofun, nofun, nofun, nofun, nofun⟩
  | brk =>
    rw [exec_brk]
    exact ⟨_, rfl, keepsFlags_brk (takeException_p (pcAfter s 2) true irqVector s)⟩
  | txs | jmp m | nop | nopUndoc op f | nopBad op f =>
    simp only [exec_txs, exec_jmp, exec_nop, exec_nopUndoc, exec_nopBad]
    exact ⟨_, rfl, keepsFlags_of_eq rfl⟩
  | jam op b =>
    rw [exec_jam]
    split_ifs <;> exact ⟨_, rfl, keepsFlags_of_eq rfl⟩
  | bpl b | bmi b | bvc b | bvs b | bcc b | bcs b | bne b | beq b | bra b =>
    simp only [exec_bpl, exec_bmi, exec_bvc, exec_bvs, exec_bcc, exec_bcs, exec_bne, exec_beq, exec_bra]
    obtain ⟨-, -, -, -, hp⟩ := branched_registers s b _
    exact ⟨_, rfl, keepsFlags_of_eq hp⟩
  | sta m | stx m | sty m | stz m | sax m | ahx m | tas w | shy w | shx w | pha | php | phx | phy =>
    simp only [exec_sta, exec_stx, exec_sty, exec_stz, exec_sax, exec_ahx, exec_tas, exec_shy, exec_shx, exec_pha, exec_php,
      exec_phx, exec_phy]
    obtain ⟨-, -, -, hp⟩ := afterStore_registers s _ _ _ _ _
    exact ⟨_, rfl, keepsFlags_of_eq hp⟩
  | jsr w =>
    rw [exec_jsr]
    exact ⟨_, rfl, keepsFlags_of_eq (push16_p _ s)⟩
  | rts =>
    rw [exec_rts]
    exact ⟨_, rfl, keepsFlags_of_eq (pop16_p s)⟩

/-- Settles O13. -/
theorem flagWriters : Obligations.FlagWriters := fun i s _ h => of_exec (exec_keepsFlags i s) h

end Sys2Proof.Machine
end

section
/-! What an instruction costs (spec/30_encoding.md section 3, spec/40_dispatch_addressing.md sections 1 and 4): the base by its
form, which each table's maps print byte by byte, then the penalties. -/

namespace Sys2Proof

/-- The base cycles of an instruction, by its form (rules R88 and R89). -/
def Instr.baseCycles (v : Variant) : Instr → Nat
  | .lda r | .ldx r | .ldy r | .ora r | .and r | .eor r | .adc r | .sbc r | .cmp r | .cpx r | .cpy r => r.cycles
  | .bit m | .lax m => m.readCycles
  | .las _ => 4
  | .sta m | .stx m | .sty m | .stz m | .sax m | .ahx m => m.storeCycles
  | .tas _ | .shy _ | .shx _ => 5
  | .asl r | .lsr r | .rol r | .ror r => r.cycles
  | .inc m | .dec m | .tsb m | .trb m | .slo m | .rla m | .sre m | .rra m | .dcp m | .isb m => m.rmwCycles
  | .jmp m => Machine.jumpCycles m v
  | .jsr _ | .rts | .rti => 6
  | .pha | .php | .phx | .phy => 3
  | .pla | .plp | .plx | .ply => 4
  | .brk => 7
  | .nopUndoc _ f => Machine.nopCycles f
  | .nopBad op f => Machine.badCycles op f
  | _ => 2

/-- The instructions that pay for a page cross: the read kinds with a mode that can cross (rules R104 and R105). -/
def Instr.paysCross : Instr → Bool
  | .lda (.mem m) | .ldx (.mem m) | .ldy (.mem m) | .ora (.mem m) | .and (.mem m) | .eor (.mem m) | .adc (.mem m)
  | .sbc (.mem m) | .cmp (.mem m) | .cpx (.mem m) | .cpy (.mem m) | .bit m | .lax m => m.isIn [.absX, .absY, .indY]
  | .las _ | .nopUndoc _ (.absX _) => true
  | _ => false

namespace Machine

/-! ### The maps -/

theorem map_baseCycles_tableOf (v : Variant) (b : Byte) (w : Word) :
    (tableOf v b w).map (Instr.baseCycles v) = (tableOf v 0 0).map (Instr.baseCycles v) := by
  cases v <;> simp only [tableOf, nmosMap, cmosMap, List.map_append] <;> rfl

theorem map_paysCross_tableOf (v : Variant) (b : Byte) (w : Word) :
    (tableOf v b w).map Instr.paysCross = (tableOf v 0 0).map Instr.paysCross := by
  cases v <;> simp only [tableOf, nmosMap, cmosMap, List.map_append] <;> rfl

theorem baseCycles_decodeOp (v : Variant) (op b1 b2 : Byte) : (decodeOp v op b1 b2).baseCycles v = mapBase v op := by
  have hclosed : ∀ v (op : Byte), (decodeOp v op 0 0).baseCycles v = mapBase v op := by
    intro v
    cases v <;> decide
  exact (decodeOp_of_map_eq rfl (map_baseCycles_tableOf v _ _)).trans (hclosed v op)

theorem paysCross_decodeOp (v : Variant) (op b1 b2 : Byte) : (decodeOp v op b1 b2).paysCross = mapPlus v op := by
  have hclosed : ∀ v (op : Byte), (decodeOp v op 0 0).paysCross = mapPlus v op := by
    intro v
    cases v <;> decide
  exact (decodeOp_of_map_eq rfl (map_paysCross_tableOf v _ _)).trans (hclosed v op)

/-! ### The penalties -/

theorem isIn_of_cross {m : EaMode} {s : State} (h : (m.resolve s).cross = true) : m.isIn [.absX, .absY, .indY] = true := by
  by_contra hplain
  rw [cross_of_plain_mode (Bool.eq_false_iff.mpr hplain) s] at h
  cases h

/-- An operand crosses a page only in an instruction that the map marks. -/
theorem paysCross_of_crosses {i : Instr} {s : State} (h : i.crosses s = true) : i.paysCross = true := by
  cases i with
  | lda r | ldx r | ldy r | ora r | and r | eor r | adc r | sbc r | cmp r | cpx r | cpy r =>
    cases r with
    | imm b => cases h
    | mem m => exact isIn_of_cross h
  | bit m | lax m => exact isIn_of_cross h
  | las w => rfl
  | nopUndoc op f =>
    cases f with
    | absX w => rfl
    | _ => cases h
  | _ => cases h

theorem extraCycles_of_branch {i : Instr} {s : State} {c : Bool} {b : Byte} (h : i.branch? s = some (c, b)) :
    i.extraCycles s = if c then if branchGoal s b / 256 = (s.pc.toNat + 2) % 65536 / 256 then 1 else 2 else 0 := by
  unfold Instr.extraCycles
  rw [h]
  cases i with
  | bpl b' | bmi b' | bvc b' | bvs b' | bcc b' | bcs b' | bne b' | beq b' | bra b' => cases c <;> rfl
  | _ => cases h

theorem branched_clk (s : State) (b : Byte) (c : Bool) :
    (branched s b c).clk =
      s.clk + (2 + if c then if branchGoal s b / 256 = (s.pc.toNat + 2) % 65536 / 256 then 1 else 2 else 0 : Nat) := by
  cases c with
  | false => rfl
  | true =>
    simp only [branched, if_true]
    split <;> rfl

/-! ### The cost of an instruction -/

/-- The transition costs so many cycles: `clk` has them added, or the hook, which comes last, is told so (rule R106). -/
def Costs (i : Instr) (s t : State) (cost : Nat) : Prop :=
  (i.callsHook = false → t.clk = s.clk + cost) ∧ (i.callsHook = true → t.hostLog.head? = some (.hook (s.clk + cost)))

theorem costs_of_clk {i : Instr} {s t : State} {cost n : Nat} (hi : i.callsHook = false) (h : t.clk = s.clk + n)
    (hn : n = cost) : Costs i s t cost := by
  subst hn
  exact ⟨fun _ => h, fun hhook => absurd hhook (by rw [hi]; exact Bool.false_ne_true)⟩

theorem exec_costs {i : Instr} {s : State} (hwf : WellFormed s.params.variant i) :
    ∃ t, exec i s = .next t ∧
      Costs i s t (i.baseCycles s.params.variant + bitNat (i.crosses s) + i.extraCycles s) := by
  cases i with
  | lda r | ldx r | ldy r | ora r | and r | eor r | cmp r | cpx r | cpy r =>
    simp only [exec_lda, exec_ldx, exec_ldy, exec_ora, exec_and, exec_eor, exec_cmp, exec_cpx, exec_cpy]
    exact ⟨_, rfl, costs_of_clk rfl rfl (by cases r <;> rfl)⟩
  | adc r | sbc r =>
    simp only [exec_adc, exec_sbc, decimalExtra_eq]
    exact ⟨_, rfl, costs_of_clk rfl rfl (by cases r <;> rfl)⟩
  | sbcEb b =>
    cases hv : s.params.variant with
    | cmos => rw [hv] at hwf; cases hwf
    | nmos =>
      rw [exec_sbcEb, decimalExtra, hv]
      exact ⟨_, rfl, costs_of_clk rfl rfl rfl⟩
  | bit m | lax m | bitImm b | las w =>
    simp only [exec_bit, exec_lax, exec_bitImm, exec_las]
    exact ⟨_, rfl, costs_of_clk rfl rfl rfl⟩
  | tax | tay | txa | tya | tsx | txs | inx | iny | dex | dey | ina | dea | clc | sec | sei | clv | cld | sed =>
    simp only [exec_tax, exec_tay, exec_txa, exec_tya, exec_tsx, exec_txs, exec_inx, exec_iny, exec_dex, exec_dey, exec_ina,
      exec_dea, exec_clc, exec_sec, exec_sei, exec_clv, exec_cld, exec_sed]
    exact ⟨_, rfl, costs_of_clk rfl rfl rfl⟩
  | lxa b | anc b | anc2b b | alr b | arr b | xaa b | axs b =>
    simp only [exec_lxa, exec_anc, exec_anc2b, exec_alr, exec_arr, exec_xaa, exec_axs]
    exact ⟨_, rfl, costs_of_clk rfl rfl rfl⟩
  | asl r | lsr r | rol r | ror r =>
    cases r with
    | acc =>
      simp only [exec_asl_acc, exec_lsr_acc, exec_rol_acc, exec_ror_acc]
      exact ⟨_, rfl, costs_of_clk rfl rfl rfl⟩
    | mem m =>
      simp only [exec_asl_mem, exec_lsr_mem, exec_rol_mem, exec_ror_mem]
      exact ⟨_, rfl, costs_of_clk rfl rfl rfl⟩
  | inc m | dec m | tsb m | trb m | slo m | rla m | sre m | rra m | dcp m | isb m =>
    simp only [exec_inc, exec_dec, exec_tsb, exec_trb, exec_slo, exec_rla, exec_sre, exec_rra, exec_dcp, exec_isb]
    exact ⟨_, rfl, costs_of_clk rfl rfl rfl⟩
  | sta m | stx m | sty m | stz m | sax m | ahx m | tas w | shy w | shx w | pha | php | phx | phy =>
    simp only [exec_sta, exec_stx, exec_sty, exec_stz, exec_sax, exec_ahx, exec_tas, exec_shy, exec_shx, exec_pha, exec_php,
      exec_phx, exec_phy]
    exact ⟨_, rfl, costs_of_clk rfl rfl rfl⟩
  | bpl b | bmi b | bvc b | bvs b | bcc b | bcs b | bne b | beq b | bra b =>
    simp only [exec_bpl, exec_bmi, exec_bvc, exec_bvs, exec_bcc, exec_bcs, exec_bne, exec_beq, exec_bra]
    exact ⟨_, rfl, costs_of_clk rfl (branched_clk s b _) (by rw [extraCycles_of_branch rfl]; rfl)⟩
  | jmp m | jsr w | rts | pla | plx | ply | brk | nop | nopBad op f =>
    simp only [exec_jmp, exec_jsr, exec_rts, exec_pla, exec_plx, exec_ply, exec_brk, exec_nop, exec_nopBad]
    exact ⟨_, rfl, costs_of_clk rfl rfl rfl⟩
  | nopUndoc op f =>
    rw [exec_nopUndoc]
    exact ⟨_, rfl, costs_of_clk rfl rfl (by cases f <;> rfl)⟩
  | jam op b =>
    rw [exec_jam]
    split_ifs <;> exact ⟨_, rfl, costs_of_clk rfl rfl rfl⟩
  | cli | plp | rti =>
    simp only [exec_cli, exec_plp, exec_rti]
    exact ⟨_, rfl, nofun, fun _ => rfl⟩

/-- Settles O11: an instruction's base is its byte's cell of the map, and only a marked byte's operand crosses. -/
theorem cyclesAreTheMaps : Obligations.CyclesAreTheMaps := by
  intro op b1 b2 s v i cost
  obtain ⟨t, ht, hcosts⟩ := exec_costs (decodeOp_wellFormed v op b1 b2)
  have hcross : bitNat (i.crosses s) = if mapPlus v op = true ∧ i.crosses s = true then 1 else 0 := by
    rw [← paysCross_decodeOp v op b1 b2]
    cases hc : i.crosses s with
    | false => simp [bitNat]
    | true => simp [bitNat, i, paysCross_of_crosses hc]
  rw [baseCycles_decodeOp, hcross] at hcosts
  exact ⟨t, ht, hcosts⟩

end Machine
end Sys2Proof
end

section
/-! What no instruction reads (spec/46_nmos_undocumented.md sections 3 to 5, spec/70_reset_and_hazards.md section 3): the open
parameters but for six instructions, and the cycle count while every block is flat. Both are one fact: an instruction commutes
with a change of the two. -/

namespace Sys2Proof.Machine

/-- The state with other parameters and with its cycle count moved. -/
def State.vary (s : State) (q : Params) (k : Int) : State := { s with params := q, clk := s.clk + k }

@[simp] theorem State.vary_params (s : State) (q : Params) (k : Int) : (s.vary q k).params = q := rfl
@[simp] theorem State.vary_a (s : State) (q : Params) (k : Int) : (s.vary q k).a = s.a := rfl
@[simp] theorem State.vary_x (s : State) (q : Params) (k : Int) : (s.vary q k).x = s.x := rfl
@[simp] theorem State.vary_y (s : State) (q : Params) (k : Int) : (s.vary q k).y = s.y := rfl
@[simp] theorem State.vary_sp (s : State) (q : Params) (k : Int) : (s.vary q k).sp = s.sp := rfl
@[simp] theorem State.vary_p (s : State) (q : Params) (k : Int) : (s.vary q k).p = s.p := rfl
@[simp] theorem State.vary_clk (s : State) (q : Params) (k : Int) : (s.vary q k).clk = s.clk + k := rfl

/-- The parameters `q` differ from `p` in open ones alone, and the cycle count moves only where no handler is told it. -/
structure Varies (p q : Params) (k : Int) : Prop where
  variant : q.variant = p.variant
  halts : q.nmosJamHalts = p.nmosJamHalts
  size : q.blockSize = p.blockSize
  blocks : q.handlerBlocks = p.handlerBlocks
  clk : k = 0 ∨ ∀ w, p.isFlat w = true

theorem Varies.block {p q : Params} {k : Int} (h : Varies p q k) (w : Word) : q.block w = p.block w := by
  rw [Params.block, Params.block, h.size]

theorem Varies.isFlat {p q : Params} {k : Int} (h : Varies p q k) (w : Word) : q.isFlat w = p.isFlat w := by
  rw [Params.isFlat, Params.isFlat, h.blocks, h.block]

section
variable {s : State} {q : Params} {k : Int}

/-! ### Memory and the stack -/

theorem memRead_vary (h : Varies s.params q k) (w : Word) :
    memRead w (s.vary q k) = ((memRead w s).1, (memRead w s).2.vary q k) := by
  cases hflat : s.params.isFlat w with
  | true => rw [memRead_of_flat hflat, memRead_of_flat (s := s.vary q k) ((h.isFlat w).trans hflat)]; rfl
  | false =>
    obtain rfl | hall := h.clk
    · rw [memRead_of_handler hflat, memRead_of_handler (s := s.vary q 0) ((h.isFlat w).trans hflat)]
      simp only [State.handlerAnswer, State.vary_params, State.vary_clk, h.block, Int.add_zero]
      rfl
    · exact absurd (hall w) (by rw [hflat]; exact Bool.false_ne_true)

theorem memWrite_vary (h : Varies s.params q k) (w : Word) (v : Byte) :
    memWrite w v (s.vary q k) = (memWrite w v s).vary q k := by
  rw [memWrite, memWrite, State.vary_params, h.isFlat, h.block]
  split
  · rfl
  · rename_i hflat
    obtain rfl | hall := h.clk
    · rw [State.vary_clk, Int.add_zero]
      rfl
    · exact absurd (hall w) hflat

theorem read16_vary (h : Varies s.params q k) (w : Word) :
    read16 w (s.vary q k) = ((read16 w s).1, (read16 w s).2.vary q k) := by
  simp only [read16, memRead_vary h, memRead_vary ((memRead_params w s).symm ▸ h)]

theorem read16PageWrapped_vary (h : Varies s.params q k) (w : Word) :
    read16PageWrapped w (s.vary q k) = ((read16PageWrapped w s).1, (read16PageWrapped w s).2.vary q k) := by
  simp only [read16PageWrapped, memRead_vary h, memRead_vary ((memRead_params w s).symm ▸ h)]

theorem pop8_vary (h : Varies s.params q k) : pop8 (s.vary q k) = ((pop8 s).1, (pop8 s).2.vary q k) :=
  memRead_vary (s := s.setSp (s.sp + 1)) h _

theorem pop16_vary (h : Varies s.params q k) : pop16 (s.vary q k) = ((pop16 s).1, (pop16 s).2.vary q k) := by
  simp only [pop16, pop8_vary h, pop8_vary ((pop8_params s).symm ▸ h)]

theorem push8_vary (h : Varies s.params q k) (v : Byte) : push8 v (s.vary q k) = (push8 v s).vary q k := by
  rw [push8, State.vary_sp, memWrite_vary h]
  rfl

theorem push16_vary (h : Varies s.params q k) (w : Word) : push16 w (s.vary q k) = (push16 w s).vary q k := by
  rw [push16, push8_vary h, push8_vary ((push8_params _ s).symm ▸ h)]
  rfl

theorem setP_enter_vary (h : Varies s.params q k) :
    (s.vary q k).setP ((s.vary q k).p.enter (s.vary q k).params.variant) =
      (s.setP (s.p.enter s.params.variant)).vary q k := by
  rw [State.vary_params, h.variant]
  rfl

theorem read16_setP_vary (h : Varies s.params q k) (w : Word) (p : Flags) :
    read16 w ((s.setP p).vary q k) = ((read16 w (s.setP p)).1, (read16 w (s.setP p)).2.vary q k) :=
  read16_vary (s := s.setP p) h w

theorem pop16_setP_vary (h : Varies s.params q k) (p : Flags) :
    pop16 ((s.vary q k).setP p) = ((pop16 (s.setP p)).1, (pop16 (s.setP p)).2.vary q k) :=
  pop16_vary (s := s.setP p) h

theorem takeException_vary (h : Varies s.params q k) (ret : Word) (brk : Bool) (vector : Word) :
    takeException ret brk vector (s.vary q k) = (takeException ret brk vector s).vary q k := by
  have hpush : Varies (push16 ret s).params q k := (push16_params ret s).symm ▸ h
  have hstack : Varies (push8 (statusImage brk s.p) (push16 ret s)).params q k := (push8_params _ _).symm ▸ hpush
  rw [takeException, State.vary_p, push16_vary h, push8_vary hpush, setP_enter_vary hstack, read16_setP_vary hstack]
  rfl

theorem returnFromException_vary (h : Varies s.params q k) :
    returnFromException (s.vary q k) = (returnFromException s).vary q k := by
  have hpop : Varies (pop8 s).2.params q k := (pop8_params s).symm ▸ h
  rw [returnFromException, pop8_vary h, pop16_setP_vary hpop]
  rfl

/-! ### Operands -/

theorem EaMode.resolve_vary (m : EaMode) (s : State) (q : Params) (k : Int) : m.resolve (s.vary q k) = m.resolve s := by
  cases m <;> rfl

theorem operandOf_vary (h : Varies s.params q k) (m : EaMode) :
    operandOf m (s.vary q k) = ((operandOf m s).1, (operandOf m s).2.vary q k) := by
  rw [operandOf, operandOf, EaMode.resolve_vary, EaMode.load, EaMode.load]
  split
  · rfl
  · exact memRead_vary h _

theorem ReadOp.load_vary (h : Varies s.params q k) (r : ReadOp) :
    r.load (s.vary q k) = ((r.load s).1, (r.load s).2.vary q k) := by
  cases r with
  | imm b => rfl
  | mem m => exact operandOf_vary h m

theorem jumpTarget_vary (h : Varies s.params q k) (m : JmpMode) :
    jumpTarget m (s.vary q k) = ((jumpTarget m s).1, (jumpTarget m s).2.vary q k) := by
  cases m with
  | abs w => rfl
  | ind w =>
    cases hv : s.params.variant with
    | nmos => simp only [jumpTarget, State.vary_params, h.variant, hv, read16PageWrapped_vary h]
    | cmos => simp only [jumpTarget, State.vary_params, h.variant, hv, read16_vary h]
  | indX w => simp only [jumpTarget, State.vary_x, read16_vary h]

/-! ### What the instructions leave -/

theorem decimalExtra_vary (h : Varies s.params q k) : decimalExtra (s.vary q k) = decimalExtra s := by
  rw [decimalExtra, decimalExtra, State.vary_params, h.variant]
  rfl

theorem ReadOp.penalty_vary (r : ReadOp) (s : State) (q : Params) (k : Int) : r.penalty (s.vary q k) = r.penalty s := by
  cases r with
  | imm b => rfl
  | mem m => exact congrArg (fun e => bitNat e.cross) (EaMode.resolve_vary m s q k)

theorem State.adc_vary (h : Varies s.params q k) (m : Byte) : (s.vary q k).adc m = s.adc m := by
  rw [State.adc, State.adc, State.vary_params, h.variant]
  rfl

theorem State.sbc_vary (h : Varies s.params q k) (m : Byte) : (s.vary q k).sbc m = s.sbc m := by
  rw [State.sbc, State.sbc, State.vary_params, h.variant]
  rfl

theorem State.rra_vary (h : Varies s.params q k) (m : Byte) : (s.vary q k).rra m = s.rra m := by
  rw [State.rra, State.rra, State.vary_params, h.variant]
  rfl

theorem afterRead_vary (h : Varies s.params q k) (r : ReadOp) (extra : Nat) (a x y sp : Byte) (p : Flags) :
    { afterRead r extra (s.vary q k) a x y p with sp := sp } =
      ({ afterRead r extra s a x y p with sp := sp } : State).vary q k := by
  simp only [afterRead, ReadOp.load_vary h, ReadOp.penalty_vary]
  simp only [State.vary, Int.add_right_comm]
  rfl

theorem afterImplied_vary (cycles : Nat) (s : State) (q : Params) (k : Int) (a x y sp : Byte) (p : Flags) :
    afterImplied cycles (s.vary q k) a x y sp p = (afterImplied cycles s a x y sp p).vary q k := by
  simp only [afterImplied, State.vary, Int.add_right_comm]
  rfl

theorem afterImm_vary (s : State) (q : Params) (k : Int) (a x : Byte) (p : Flags) :
    afterImm (s.vary q k) a x p = (afterImm s a x p).vary q k := by
  simp only [afterImm, State.vary, Int.add_right_comm]
  rfl

theorem idled_vary (len cycles : Nat) (s : State) (q : Params) (k : Int) :
    idled (s.vary q k) len cycles = (idled s len cycles).vary q k := by
  simp only [idled, State.vary, Int.add_right_comm]
  rfl

theorem branched_vary (s : State) (q : Params) (k : Int) (b : Byte) (c : Bool) :
    branched (s.vary q k) b c = (branched s b c).vary q k := by
  rw [branched, branched]
  cases c with
  | false =>
    simp only [Bool.false_eq_true, if_false, State.vary, Int.add_right_comm]
    rfl
  | true =>
    simp only [if_true, State.vary, Int.add_right_comm]
    rfl

theorem jumped_vary (h : Varies s.params q k) (m : JmpMode) (cycles : Int) :
    jumped (s.vary q k) (jumpTarget m (s.vary q k)) cycles = (jumped s (jumpTarget m s) cycles).vary q k := by
  simp only [jumped, jumpTarget_vary h]
  simp only [State.vary, Int.add_right_comm]

theorem afterPull_vary (h : Varies s.params q k) (cycles : Nat) (a x y : Byte) (p : Flags) :
    afterPull cycles (s.vary q k) a x y p = (afterPull cycles s a x y p).vary q k := by
  simp only [afterPull, pop8_vary h]
  simp only [State.vary, Int.add_right_comm]
  rfl

theorem afterStore_vary (h : Varies s.params q k) (sp : Byte) (w : Word) (v : Byte) (len cycles : Nat) :
    afterStore (s.vary q k) sp w v len cycles = (afterStore s sp w v len cycles).vary q k := by
  simp only [afterStore, memWrite_vary h]
  simp only [State.vary, Int.add_right_comm]
  rfl

theorem afterRmw_vary (h : Varies s.params q k) (m : EaMode) (r a : Byte) (p : Flags) :
    afterRmw m (s.vary q k) r a p = (afterRmw m s r a p).vary q k := by
  have hread : Varies (operandOf m s).2.params q k := by rwa [operandOf_snd]
  simp only [afterRmw, operandOf_vary h, EaMode.resolve_vary, memWrite_vary hread]
  simp only [State.vary, Int.add_right_comm]
  rfl

theorem callHook_vary (s : State) (q : Params) : (s.vary q 0).callHook = s.callHook.vary q 0 := by
  simp only [State.callHook, State.vary_clk, Int.add_zero]
  simp only [State.vary, Int.add_zero]
  rfl

/-- The six instructions that read an open parameter (rules R409, R413 and R416). -/
def readsOpen : Instr → Bool
  | .lxa _ | .xaa _ | .ahx _ | .tas _ | .shy _ | .shx _ => true
  | _ => false

/-- An instruction commutes with a change of the parameters and of the cycle count that it does not see. -/
theorem exec_vary {i : Instr} (h : Varies s.params q k) (hopen : readsOpen i = true → q = s.params)
    (hhook : i.callsHook = true → k = 0) :
    ∃ t, exec i s = .next t ∧ exec i (s.vary q k) = .next (t.vary q k) := by
  cases i with
  | lda r | ldx r | ldy r | ora r | and r | eor r | adc r | sbc r | sbcEb b | cmp r | cpx r | cpy r | bit m | bitImm b
  | lax m =>
    simp only [exec_lda, exec_ldx, exec_ldy, exec_ora, exec_and, exec_eor, exec_adc, exec_sbc, exec_sbcEb, exec_cmp,
      exec_cpx, exec_cpy, exec_bit, exec_bitImm, exec_lax, State.vary_a, State.vary_x, State.vary_y, State.vary_p,
      ReadOp.load_vary h, operandOf_vary h, decimalExtra_vary h, State.adc_vary h, State.sbc_vary h]
    exact ⟨_, rfl, congrArg _ (afterRead_vary h _ _ _ _ _ s.sp _)⟩
  | las w =>
    simp only [exec_las, State.vary_sp, State.vary_y, State.vary_p, operandOf_vary h]
    exact ⟨_, rfl, congrArg _ (afterRead_vary h _ _ _ _ _ _ _)⟩
  | tax | tay | txa | tya | tsx | txs | inx | iny | dex | dey | ina | dea | clc | sec | sei | clv | cld | sed =>
    simp only [exec_tax, exec_tay, exec_txa, exec_tya, exec_tsx, exec_txs, exec_inx, exec_iny, exec_dex, exec_dey, exec_ina,
      exec_dea, exec_clc, exec_sec, exec_sei, exec_clv, exec_cld, exec_sed]
    exact ⟨_, rfl, congrArg _ (afterImplied_vary _ s q k _ _ _ _ _)⟩
  | cli =>
    obtain rfl := hhook rfl
    rw [exec_cli, exec_cli, afterImplied_vary, callHook_vary]
    exact ⟨_, rfl, rfl⟩
  | anc b | anc2b b | alr b | arr b | axs b =>
    simp only [exec_anc, exec_anc2b, exec_alr, exec_arr, exec_axs]
    exact ⟨_, rfl, congrArg _ (afterImm_vary s q k _ _ _)⟩
  | lxa b | xaa b =>
    obtain rfl := hopen rfl
    simp only [exec_lxa, exec_xaa]
    exact ⟨_, rfl, congrArg _ (afterImm_vary s s.params k _ _ _)⟩
  | asl r | lsr r | rol r | ror r =>
    cases r with
    | acc =>
      simp only [exec_asl_acc, exec_lsr_acc, exec_rol_acc, exec_ror_acc]
      exact ⟨_, rfl, congrArg _ (afterImplied_vary _ s q k _ _ _ _ _)⟩
    | mem m =>
      simp only [exec_asl_mem, exec_lsr_mem, exec_rol_mem, exec_ror_mem, operandOf_vary h]
      exact ⟨_, rfl, congrArg _ (afterRmw_vary h m _ _ _)⟩
  | inc m | dec m | tsb m | trb m | slo m | rla m | sre m | rra m | dcp m | isb m =>
    simp only [exec_inc, exec_dec, exec_tsb, exec_trb, exec_slo, exec_rla, exec_sre, exec_rra, exec_dcp, exec_isb,
      operandOf_vary h, State.rra_vary h, State.sbc_vary h]
    exact ⟨_, rfl, congrArg _ (afterRmw_vary h m _ _ _)⟩
  | sta m | stx m | sty m | stz m | sax m | pha | php | phx | phy =>
    simp only [exec_sta, exec_stx, exec_sty, exec_stz, exec_sax, exec_pha, exec_php, exec_phx, exec_phy,
      EaMode.resolve_vary]
    exact ⟨_, rfl, congrArg _ (afterStore_vary h _ _ _ _ _)⟩
  | ahx m | tas w | shy w | shx w =>
    obtain rfl := hopen rfl
    simp only [exec_ahx, exec_tas, exec_shy, exec_shx, ahxValue, tasValue, shyValue, shxValue, EaMode.resolve_vary]
    exact ⟨_, rfl, congrArg _ (afterStore_vary h _ _ _ _ _)⟩
  | bpl b | bmi b | bvc b | bvs b | bcc b | bcs b | bne b | beq b | bra b =>
    simp only [exec_bpl, exec_bmi, exec_bvc, exec_bvs, exec_bcc, exec_bcs, exec_bne, exec_beq, exec_bra]
    exact ⟨_, rfl, congrArg _ (branched_vary s q k b _)⟩
  | jmp m =>
    rw [exec_jmp, exec_jmp, jumped_vary h, State.vary_params, h.variant]
    exact ⟨_, rfl, rfl⟩
  | jsr w =>
    rw [exec_jsr, exec_jsr, push16_vary h, State.vary_clk, Int.add_right_comm]
    exact ⟨_, rfl, rfl⟩
  | rts =>
    rw [exec_rts, exec_rts, pop16_vary h, State.vary_clk, Int.add_right_comm]
    exact ⟨_, rfl, rfl⟩
  | pla | plx | ply =>
    simp only [exec_pla, exec_plx, exec_ply, pop8_vary h]
    exact ⟨_, rfl, congrArg _ (afterPull_vary h _ _ _ _ _)⟩
  | plp =>
    obtain rfl := hhook rfl
    rw [exec_plp, exec_plp, pop8_vary h, afterPull_vary h, callHook_vary]
    exact ⟨_, rfl, rfl⟩
  | brk =>
    rw [exec_brk, exec_brk, takeException_vary h, State.vary_clk, Int.add_right_comm]
    exact ⟨_, rfl, rfl⟩
  | rti =>
    obtain rfl := hhook rfl
    rw [exec_rti, exec_rti, returnFromException_vary h, State.vary_clk, Int.add_right_comm]
    exact ⟨_, rfl, congrArg _ (callHook_vary { returnFromException s with clk := s.clk + 6 } q)⟩
  | nop | nopUndoc op f | nopBad op f =>
    simp only [exec_nop, exec_nopUndoc, exec_nopBad]
    exact ⟨_, rfl, congrArg _ (idled_vary _ _ s q k)⟩
  | jam op b =>
    rw [exec_jam, exec_jam, State.vary_params, h.halts, State.vary_clk, Int.add_right_comm]
    split_ifs with hhalts
    · exact ⟨_, rfl, rfl⟩
    · exact ⟨_, rfl, congrArg _ (idled_vary _ _ s q k)⟩

end

/-- Settles O16: a change of the open parameters is one that moves no cycle count. -/
theorem openParametersStayInTheirOpcodes : Obligations.OpenParametersStayInTheirOpcodes := by
  intro i s xaa lxa sh hi
  have hvary : ({ s with params := s.params.withOpen xaa lxa sh } : State) = s.vary (s.params.withOpen xaa lxa sh) 0 := by
    rw [State.vary, Int.add_zero]
  have hopen : readsOpen i = true → s.params.withOpen xaa lxa sh = s.params := by
    intro hreads
    cases i with
    | lxa b | xaa b | ahx m | tas w | shy w | shx w => exact hi.elim
    | _ => cases hreads
  have hvaries : Varies s.params (s.params.withOpen xaa lxa sh) 0 := ⟨rfl, rfl, rfl, rfl, .inl rfl⟩
  obtain ⟨t, ht, hvaried⟩ := exec_vary hvaries hopen fun _ => rfl
  rw [hvary, hvaried, ht, State.vary, Int.add_zero]
  rfl

/-- Settles O17: with every block flat, a change of the cycle count is one that no handler is told of. -/
theorem timingChangesNothingElse : Obligations.TimingChangesNothingElse := by
  intro i s k hflat hi
  have hvary : ({ s with clk := k } : State) = s.vary s.params (k - s.clk) := by
    rw [State.vary, add_sub_cancel]
  have hhook : i.callsHook = true → k - s.clk = 0 := fun h => absurd h (by rw [hi]; exact Bool.false_ne_true)
  obtain ⟨t, ht, hvaried⟩ := exec_vary ⟨rfl, rfl, rfl, rfl, .inr hflat⟩ (fun _ => rfl) hhook
  have hclk : k + (t.clk - s.clk) = t.clk + (k - s.clk) := by omega
  refine ⟨t, ht, ?_⟩
  rw [hvary, hvaried, State.vary, hclk, ← (frame_of_exec ht).params]

end Sys2Proof.Machine
end
